-- ==== Sys2Proof/Word.lean ====
section
/-! DEFINITION. The words of the part: the byte of the host's ports and of the line, and the 16-bit field. -/

namespace Sys2Proof

/-- One byte: a host port access (R180), a character on the line (R3), a byte of an image or an area. -/
abbrev Byte := BitVec 8

/-- A 16-bit field (R182). -/
abbrev Half := BitVec 16

end Sys2Proof
end

