-- ==== Sys2Proof/Config.lean ====
section
/-! DEFINITION. The fixed figures of the part, each from the rule that states it. The spec leaves no result of the part open, so there is no free value here. -/

namespace Sys2Proof.Config

/-- Bytes in each of the four images (R91). -/
def imageBytes : Nat := 1024

/-- Bytes of data memory (R129). -/
def dataMemoryBytes : Nat := 4096

/-- Bytes in one unit of the staged size table (R129, R130). -/
def areaUnitBytes : Nat := 64

/-- Units the four staged sizes may sum to (R131). -/
def areaUnitsTotal : Nat := 64

/-- Records the notice queue can hold (R172). -/
def noticeCapacity : Nat := 32

/-- Highest lost count (R173). -/
def lostCountMax : Nat := 255

/-- Highest count of ATTN pulses owed (R177). -/
def attnOwedMax : Nat := 15

/-- High samples that complete the line check (R27, R29). -/
def lineCheckSamples : Nat := 2048

/-- The echo fault count that is reported to the link controller (R20). -/
def echoLimit : Nat := 3

/-- The gap before each request, in bit times (R10). -/
def gapBits : Nat := 12

/-- Bit times of one character (R3). -/
def characterBits : Nat := 10

/-- The quiet limit between reply characters (R14) and the settling wait (R12, R15), in bit times. -/
def quietBits : Nat := 20

/-- Bit times in one unit of the cycle length (R39). -/
def cycleUnitBits : Nat := 16

/-- Smallest cycle length in units (R39). -/
def cycleLengthMin : Nat := 64

/-- Largest reply or request payload (section 1.3, R15). -/
def payloadMax : Nat := 64

/-- Largest input or output length of a usable map, and of a reported length that passes FORMAT (R72, R77). -/
def regionMax : Nat := 32

/-- The marker byte of a RESULT payload (R152). -/
def resultMarker : Byte := 0xC3#8

/-- The part code (R185). -/
def partCode : Half := 0x3008#16

/-- The revision code (R185). -/
def revision : Byte := 0x01#8

/-- The address of a broadcast (R1). -/
def broadcast : Nat := 31

/-- The expected type that any reported type matches (R72). -/
def anyType : Half := 0xFFFF#16

end Sys2Proof.Config
end

