-- ==== Sys2Proof/Syntax.lean ====
section
/-! DEFINITION. The commands of the block: one constructor per row of spec/opcode_table.json, in the table's order. The table gives no operands; those below are what each row's rule takes from outside the part (log entry 2). -/

namespace Sys2Proof

/-- The direction of a DATA access, with the byte written (R180, R181). -/
inductive Access where
  | read
  | write (value : Byte)
deriving DecidableEq, Repr

/-- A character on the line: its eight data bits, the one that comes first in bit 0, and the level of its stop bit,
`true` for high (R3). -/
structure Character where
  data : Byte
  stop : Bool
deriving DecidableEq, Repr

/-- The order at the end of a transaction in RUNNING: the scheduler's next decision is taken with the end, or events
that come at the same moment are taken before it (R46, R164, R187, log entry 20). -/
inductive EndOrder where
  | decisionFirst
  | othersFirst
deriving DecidableEq, Repr

/-- One constructor per row of the table of operations and events. -/
inductive Instr where
  /-- POWER_ON_RESET (R38). -/
  | powerOnReset
  /-- PLATFORM_RESET (R186): PRST# is asserted. -/
  | platformReset
  /-- PLATFORM_RESET_RELEASE (R186): PRST# is released. -/
  | platformResetRelease
  /-- UNIT_WRITE (R180). -/
  | unitWrite (value : Byte)
  /-- INDEX_WRITE (R180). -/
  | indexWrite (value : Byte)
  /-- NO_UNIT_ACCESS (R180). -/
  | noUnitAccess (access : Access)
  /-- NO_INDEX_ACCESS (R181). -/
  | noIndexAccess (access : Access)
  /-- REGISTER_WRITE (R181). -/
  | registerWrite (value : Byte)
  /-- LOW_BYTE_READ (R182). -/
  | lowByteRead
  /-- UNKNOWN_COMMAND (R183), with the code written. -/
  | unknownCommand (code : Byte)
  /-- CLEAR_ERROR (R184). -/
  | clearError
  /-- START (R26). -/
  | start
  /-- RUN (R30). -/
  | run
  /-- STOP (R31). -/
  | stop
  /-- SHUTDOWN (R33). -/
  | shutdown
  /-- LINK_CONFIG_WRITE (R23). -/
  | linkConfigWrite (value : Byte)
  /-- CYCLE_LENGTH_WRITE (R39): one byte of the 16-bit field. -/
  | cycleLengthWrite (value : Byte)
  /-- SCAN_LIST_WRITE (R44). -/
  | scanListWrite (value : Byte)
  /-- SEARCH_VACANT_WRITE (R56). -/
  | searchVacantWrite (value : Byte)
  /-- MODULE_FIELD_WRITE (R66). -/
  | moduleFieldWrite (value : Byte)
  /-- EXPECT (R77). -/
  | expect
  /-- ADOPT (R78). -/
  | adopt
  /-- FORGET (R79). -/
  | forget
  /-- DISABLE (R80). -/
  | disable
  /-- ENABLE (R81). -/
  | enable
  /-- STAGING_WRITE (R99). -/
  | stagingWrite (value : Byte)
  /-- FOLLOW_WRITE (R95). -/
  | followWrite (value : Byte)
  /-- COMMIT_DEADLINE_WRITE (R104). -/
  | commitDeadlineWrite (value : Byte)
  /-- COMMIT (R101). -/
  | commit
  /-- SNAPSHOT (R96). -/
  | snapshot
  /-- FREEZE (R97). -/
  | freeze
  /-- RELEASE (R97). -/
  | release
  /-- SLOT_FIELD_WRITE (R110). -/
  | slotFieldWrite (value : Byte)
  /-- EXCHANGE_LIMIT_WRITE (R115). -/
  | exchangeLimitWrite (value : Byte)
  /-- POST (R117). -/
  | post
  /-- RETIRE (R120). -/
  | retire
  /-- RESTART (R121). -/
  | restart
  /-- ABORT (R160 to R162). -/
  | abort
  /-- RESUME (R166, R167). -/
  | resume
  /-- STAGED_SIZE_WRITE (R130). -/
  | stagedSizeWrite (value : Byte)
  /-- CONFIGURE (R131). -/
  | configure
  /-- FLUSH (R135). -/
  | flush
  /-- DATA_PORT_WRITE (R133). -/
  | dataPortWrite (value : Byte)
  /-- DATA_PORT_READ (R134). -/
  | dataPortRead
  /-- POP (R174). -/
  | pop
  /-- CLEAR_LOST (R173). -/
  | clearLost
  /-- CLEARING_REGISTER_WRITE (R175). -/
  | clearingRegisterWrite (value : Byte)
  /-- INT_ENABLE_WRITE (R176). -/
  | intEnableWrite (value : Byte)
  /-- ATTN_ENABLE_WRITE (R176). -/
  | attnEnableWrite (value : Byte)
  /-- LINE_CHECK_COMPLETE (R29). -/
  | lineCheckComplete
  /-- LINE_CHECK_FAILED (R28): a low sample after `highs` high ones. -/
  | lineCheckFailed (highs : Nat)
  /-- CYCLE_TIMER_EXPIRY (R40). -/
  | cycleTimerExpiry
  /-- GAP_ELAPSED (R10). -/
  | gapElapsed
  /-- REQUEST_ECHOED (R11): the characters read back, each as sent. -/
  | requestEchoed (readBack : List Character := []) (order : EndOrder := .decisionFirst)
  /-- ECHO_MISMATCH (R12): the characters read back, the last of them the first that differs. -/
  | echoMismatch (readBack : List Character)
  /-- REPLY_WINDOW_EXPIRY (R13). -/
  | replyWindowExpiry (order : EndOrder := .decisionFirst)
  /-- REPLY_START (R13): a start bit detected `wait` bit times into the reply window. -/
  | replyStart (wait : Nat)
  /-- RECEIVE_FAULT (R15): the characters collected, the last one with a bad stop bit or the header judged
  faulty, and the idle bit times between them. -/
  | receiveFault (characters : List Byte) (badStop : Bool) (idle : Nat)
  /-- QUIET_LIMIT_EXPIRY (R14): the characters collected before the line fell quiet, and the idle bit times
  between them. -/
  | quietLimitExpiry (characters : List Byte) (idle : Nat) (order : EndOrder := .decisionFirst)
  /-- SETTLING_END (R12, R15): the bit times spent settling. -/
  | settlingEnd (wait : Nat) (order : EndOrder := .decisionFirst)
  /-- REPLY_RECEIVED (R16): the whole reply frame and the idle bit times between its characters. -/
  | replyReceived (frame : List Byte) (idle : Nat) (order : EndOrder := .decisionFirst)
  /-- ATTN_PULSE_START (R177). -/
  | attnPulseStart
  /-- ATTN_PULSE_END (R177). -/
  | attnPulseEnd
  /-- REGISTER_READ (R181). -/
  | registerRead
deriving DecidableEq, Repr

end Sys2Proof
end

