-- ==== Sys2Proof/Decode.lean ====
section
/-! DEFINITION. The command that a word spells by the table's bits (no row of spec/opcode_table.json gives bits: the block takes port accesses and line events, not words), the serial form of a character, and the decoding of a reply frame's header, on which the bounds of the line's events rest. -/

namespace Sys2Proof

/-- No row of the table gives bits, so no word spells a command. -/
def decodeTableWord (_nbits _w : Nat) : Option Instr := none

/-! ### Characters (R3) -/

/-- The ten levels of a character, one bit time each, `true` for high: the start bit low, the eight data bits with the
least significant first, the stop bit (R3). -/
def Character.levels (c : Character) : List Bool :=
  [false, c.data.getLsbD 0, c.data.getLsbD 1, c.data.getLsbD 2, c.data.getLsbD 3, c.data.getLsbD 4, c.data.getLsbD 5,
    c.data.getLsbD 6, c.data.getLsbD 7, c.stop]

/-- The character a byte is sent as: its stop bit is high (R3). A character read back is equal to it when all eight data
bits match and the stop bit was sampled high (R11). -/
def Character.sent (b : Byte) : Character := { data := b, stop := true }

/-- The characters of a frame, back to back (R3, R11). -/
def sentCharacters (bytes : List Byte) : List Character := bytes.map Character.sent

/-- The levels of a run of characters with no idle time between them (R3). -/
def lineLevels (cs : List Character) : List Bool := cs.flatMap Character.levels

/-! ### Replies as they come in (R14, R15) -/

/-- A header byte with a reserved bit set (R189, Table 11-9), by its position 0 to 3. -/
def headerReserved (position : Nat) (b : Byte) : Bool :=
  match position with
  | 0 => b &&& 0xE0#8 != 0#8
  | 1 => b &&& 0xE0#8 != 0#8
  | 2 => b &&& 0xE0#8 != 0#8
  | _ => b &&& 0x80#8 != 0#8

/-- The payload length a header's fourth byte expresses, 0 to 127 (R189). -/
def headerLength (b3 : Byte) : Nat := (b3 &&& 0x7F#8).toNat

/-- Does a header show one of the two header faults of R15: a payload length over 64, or a reserved bit not 0? -/
def headerFaulty (b0 b1 b2 b3 : Byte) : Bool :=
  headerReserved 0 b0 || headerReserved 1 b1 || headerReserved 2 b2 || headerReserved 3 b3 ||
    decide (Config.payloadMax < headerLength b3)

/-- The characters of a reply of which all stop bits but perhaps the last were good and no header fault was met
before the last one (R14, R15): at least one character, and after a whole good header at most the reply's full
length. -/
def repliesSoFar (cs : List Byte) : Bool :=
  match cs with
  | b0 :: b1 :: b2 :: b3 :: rest =>
    rest.isEmpty || (!headerFaulty b0 b1 b2 b3 && decide (rest.length ≤ headerLength b3 + 2))
  | [] => false
  | _ => true

/-- A reply that ends at its declared length (R14): a good header, then payload and two check bytes. -/
def replyComplete (frame : List Byte) : Bool :=
  match frame with
  | b0 :: b1 :: b2 :: b3 :: rest =>
    !headerFaulty b0 b1 b2 b3 && rest.length == headerLength b3 + 2
  | _ => false

/-- A reply abandoned at the quiet limit (R14): some characters, no fault, and not yet the declared length. -/
def replyCutShort (cs : List Byte) : Bool :=
  match cs with
  | b0 :: b1 :: b2 :: b3 :: rest =>
    !headerFaulty b0 b1 b2 b3 && decide (rest.length < headerLength b3 + 2)
  | [] => false
  | _ => true

/-- A fault met while the reply is being received (R15): a bad stop bit at the last character collected, or a
header fault judged at the fourth. -/
def receiveFaultMet (cs : List Byte) (badStop : Bool) : Bool :=
  if badStop then repliesSoFar cs
  else
    match cs with
    | [b0, b1, b2, b3] => headerFaulty b0 b1 b2 b3
    | _ => false

end Sys2Proof
end

