-- ==== Sys2Proof/WellFormed.lean ====
section
/-! DEFINITION. What the operands of a command must satisfy before any state is looked at: the bounds that the rules of the line put on its events. -/

namespace Sys2Proof

/-- The operands of a command lie in the ranges its rule gives. -/
def Instr.wellFormed : Instr → Bool
  | .lineCheckFailed highs => decide (highs < Config.lineCheckSamples)
  | .requestEchoed rb _ => decide (6 ≤ rb.length ∧ rb.length ≤ Config.payloadMax + 6) && rb.all (fun c => c.stop)
  | .echoMismatch rb => decide (1 ≤ rb.length ∧ rb.length ≤ Config.payloadMax + 6) && rb.dropLast.all (fun c => c.stop)
  | .replyStart wait => decide (wait ≤ 255)
  | .receiveFault cs badStop _ => receiveFaultMet cs badStop
  | .quietLimitExpiry cs _ _ => replyCutShort cs
  | .settlingEnd wait _ => decide (Config.quietBits ≤ wait)
  | .replyReceived frame _ _ => replyComplete frame
  | .powerOnReset | .platformReset | .platformResetRelease | .unitWrite _ | .indexWrite _ | .noUnitAccess _
  | .noIndexAccess _ | .registerWrite _ | .lowByteRead | .unknownCommand _ | .clearError | .start | .run | .stop
  | .shutdown | .linkConfigWrite _ | .cycleLengthWrite _ | .scanListWrite _ | .searchVacantWrite _
  | .moduleFieldWrite _ | .expect | .adopt | .forget | .disable | .enable | .stagingWrite _ | .followWrite _
  | .commitDeadlineWrite _ | .commit | .snapshot | .freeze | .release | .slotFieldWrite _ | .exchangeLimitWrite _
  | .post | .retire | .restart | .abort | .resume | .stagedSizeWrite _ | .configure | .flush | .dataPortWrite _
  | .dataPortRead | .pop | .clearLost | .clearingRegisterWrite _ | .intEnableWrite _ | .attnEnableWrite _
  | .lineCheckComplete | .cycleTimerExpiry | .gapElapsed | .replyWindowExpiry _
  | .attnPulseStart | .attnPulseEnd | .registerRead => true

end Sys2Proof
end

