-- ==== Sys2Proof/Machine/State.lean ====
section
/-! DEFINITION. The state of the part as plain data, block by block as section 2 of the introduction lists them, the reasons a step can stop, and the state after power-on reset. -/

namespace Sys2Proof.Machine

/-! ### Byte-addressed memories -/

/-- Addressed bytes (the images of R91, the data memory of R129): cells with rising addresses and no cell equal to
00h, which is what an unlisted address reads as. -/
abbrev Memory := List Host.Cell

/-! ### Line engine (chapter 1) -/

/-- Request kinds (Table 1-3). -/
inductive RequestKind where
  | mark | scan | probe | openExchange | put | fetch | close | cancel
deriving DecidableEq, Repr

/-- Reply kinds (Table 1-4). -/
inductive ReplyKind where
  | scanReply | ident | accept | hold | refuse | data | result
deriving DecidableEq, Repr

/-- Transaction phases (Table 1-5). -/
inductive TxnPhase where
  | gap | sending | awaiting | receiving | settling
deriving DecidableEq, Repr

/-- Why SETTLING was entered (R9). -/
inductive SettlingCause where
  | echoFault | corrupt
deriving DecidableEq, Repr

/-- The transaction in flight (R9). -/
structure Txn where
  kind : RequestKind
  address : Nat
  payload : List Byte
  seqBit : Bool
  allowed : List ReplyKind
  exactLength : Option Nat
  phase : TxnPhase
  received : List Byte
  settling : Option SettlingCause
deriving DecidableEq, Repr

/-- What pin LTX carries: the idle level, or the levels of a request's characters, one per bit time in the order they
go out, `true` for high (R3, R4, R11). -/
inductive LtxLevel where
  | idle
  | frame (levels : List Bool)
deriving DecidableEq, Repr

/-- The line engine: transaction in flight, echo fault count, line configuration in use, pins LDE and LTX. -/
structure LineEngine where
  txn : Option Txn
  echoFaults : Nat
  bitRate : Byte
  replyWindow : Byte
  lde : Bool
  ltx : LtxLevel
deriving DecidableEq, Repr

/-! ### Link controller (chapter 2) -/

/-- Link states (R22). -/
inductive LinkState where
  | off | checking | idle | running | stopping | fault
deriving DecidableEq, Repr

/-- Causes of a link change (Table 2-3, R24). -/
inductive LinkCause where
  | none | command | checkPassed | lineHeld | echoLimit | stopDone
deriving DecidableEq, Repr

/-- The link controller: state, configuration, last change, line check. -/
structure LinkController where
  state : LinkState
  bitRate : Byte
  replyWindow : Byte
  threshold : Byte
  lastOld : LinkState
  lastNew : LinkState
  lastCause : LinkCause
  highSamples : Nat
deriving DecidableEq, Repr

/-! ### Cycle scheduler (chapter 3) -/

/-- Cycle stages (R63). -/
inductive CycleStage where
  | none | mark | scan | acyclic | probe | rest
deriving DecidableEq, Repr

/-- Status of a cycle end (R48). -/
inductive CycleStatus where
  | none | complete | overrun | stopped
deriving DecidableEq, Repr

/-- The cycle timer (R40): `running r` has r bit times left; `expired` stays at 0 until the next cycle start. -/
inductive CycleTimer where
  | stopped
  | running (remaining : Nat)
  | expired
deriving DecidableEq, Repr

/-- The cycle record (R48). -/
structure CycleRecord where
  number : Half
  scanned : Nat
  cut : Nat
  status : CycleStatus
  late : Bool
deriving DecidableEq, Repr

/-- The cycle scheduler. Module addresses 1 to 30 are held as 0 to 29. -/
structure Scheduler where
  cycleLength : Half
  timer : CycleTimer
  cycleCounter : Half
  stage : CycleStage
  scanLength : Byte
  scanEntries : Vector Byte 32
  scanPos : Nat
  scanned : Nat
  rrPtr : Fin 8
  probePtr : Fin 30
  searchVacant : Bool
  cancelDeferred : List (Fin 30)
  lateStart : Bool
  record : CycleRecord
  forSlot : Option (Fin 8)
deriving DecidableEq, Repr

/-! ### Module table (chapter 4) -/

/-- Module states (Table 4-2). -/
inductive ModuleState where
  | vacant | expected | present | suspect | lost | found | mismatch | disabled
deriving DecidableEq, Repr

/-- Mismatch causes (R74). -/
inductive MismatchCause where
  | none | format | type | length
deriving DecidableEq, Repr

/-- Causes in a MODULE_STATE notice (R76). -/
inductive ModuleCause where
  | identified | returned | answered | mismatchFormat | mismatchType | mismatchLength | failures | cancelFailed
deriving DecidableEq, Repr

/-- Whose exchange is open at a module (R82). -/
inductive Holder where
  | none
  | slot (n : Fin 8)
  | cancelPending (tag : Half)
deriving DecidableEq, Repr

/-- One module record (Table 4-1). -/
structure ModuleRecord where
  state : ModuleState
  expectedType : Half
  inOffset : Half
  inLength : Byte
  outOffset : Half
  outLength : Byte
  watchMask : Byte
  wasConfigured : Bool
  repType : Half
  repIn : Byte
  repOut : Byte
  repMax : Byte
  mismatch : MismatchCause
  failCount : Nat
  holder : Holder
  cancelHold : Nat
  waiting : List (Fin 8)
  status : Byte
  age : Nat
  refreshed : Bool
deriving DecidableEq, Repr

/-- The module table: SUBJECT (address less 1) and the 30 records. -/
structure ModuleTable where
  subject : Fin 30
  records : Vector ModuleRecord 30
deriving DecidableEq, Repr

/-! ### Image unit (chapter 5) -/

/-- The image unit (Table 5-1). -/
structure ImageUnit where
  live : Memory
  held : Memory
  staging : Memory
  active : Memory
  heldAges : Vector Nat 30
  heldCycle : Half
  follow : Bool
  freeze : Bool
  snapshotPending : Bool
  commitPending : Bool
  outputsValid : Bool
  supervision : Nat
  deadline : Byte
  select : Fin 4
  page : Fin 16
deriving DecidableEq, Repr

/-! ### Exchange unit (chapters 6, 8 and 9) -/

/-- Slot states (Table 6-3). -/
inductive SlotState where
  | free | queued | opening | transferring | closing | abortPending | aborted | done | failed
deriving DecidableEq, Repr

/-- A slot's recorded phase (R112). -/
inductive Phase where
  | none | opening | transferring | closing
deriving DecidableEq, Repr

/-- Last error kinds (Table 6-2). -/
inductive ErrorKind where
  | none | timeout | corrupt | stray | seqSlip
deriving DecidableEq, Repr

/-- Slot conditions (Table 6-4). -/
inductive Condition where
  | none | ok | refused | retries | holdExpired | longData | resultBad | resultError
  | moduleLost | moduleMismatch | linkDown | linkFault
deriving DecidableEq, Repr

/-- A slot's request in flight (R141): for PUT and FETCH the piece length and the sequence bit sent. -/
inductive SlotRequest where
  | openExchange
  | put (e : Nat) (bit : Bool)
  | fetch (e : Nat) (bit : Bool)
  | close
deriving DecidableEq, Repr

/-- Slot host fields (Table 6-1). -/
structure SlotHost where
  moduleAddr : Byte
  kind : Byte
  tag : Half
  declared : Half
  area : Fin 4
  pieceLimit : Byte
  blockLength : Byte
  block : Vector Byte 16
deriving DecidableEq, Repr

/-- Slot run-time fields other than the state (Table 6-2). -/
structure SlotRun where
  recordedPhase : Phase
  bytesMoved : Nat
  errCount : Nat
  lastError : ErrorKind
  holdCount : Nat
  putSeq : Bool
  fetchSeq : Bool
  waitArea : Bool
  deferred : Bool
  short : Bool
  abortRequested : Bool
  condition : Condition
  refuseReason : Byte
  resultCode : Byte
  residue : Half
  detail : Half
deriving DecidableEq, Repr

/-- The cleared run-time fields (R111). -/
def SlotRun.cleared : SlotRun where
  recordedPhase := .none
  bytesMoved := 0
  errCount := 0
  lastError := .none
  holdCount := 0
  putSeq := false
  fetchSeq := false
  waitArea := false
  deferred := false
  short := false
  abortRequested := false
  condition := .none
  refuseReason := 0#8
  resultCode := 0#8
  residue := 0#16
  detail := 0#16

/-- One slot: host fields, state, run-time fields, request in flight. -/
structure Slot where
  host : SlotHost
  state : SlotState
  run : SlotRun
  inFlight : Option SlotRequest
deriving DecidableEq, Repr

/-- The exchange unit. -/
structure ExchangeUnit where
  subject : Fin 8
  slots : Vector Slot 8
  retryLimit : Byte
  holdLimit : Byte
deriving DecidableEq, Repr

/-! ### Area unit (chapter 7) -/

/-- The direction in which a bound area serves its slot (R136). -/
inductive Direction where
  | write | read
deriving DecidableEq, Repr

/-- An area's binding (R132). -/
structure Binding where
  slot : Fin 8
  direction : Direction
deriving DecidableEq, Repr

/-- One area record (R132); free is computed. Sizes and positions are in bytes. -/
structure AreaRecord where
  size : Nat
  start : Nat
  fill : Nat
  oldest : Nat
  binding : Option Binding
deriving DecidableEq, Repr

/-- The area unit. -/
structure AreaUnit where
  subject : Fin 4
  memory : Memory
  records : Vector AreaRecord 4
  staged : Vector Byte 4
deriving DecidableEq, Repr

/-! ### Notice unit (chapter 10) -/

/-- Event kinds (R175), in the order of the bits of SUMMARY (R188). -/
inductive EventKind where
  | noticeWaiting | cycleEnd | overrun | linkChange | outputExpired | noticeLost | windowError
deriving DecidableEq, Repr

/-- A notice as its producer offers it: kind, subject and further fields (R171). -/
inductive NoticeBody where
  | slotEnded (slot : Fin 8) (endState : SlotState) (condition : Condition) (abortRequested : Bool)
  | moduleState (module : Fin 30) (old new : ModuleState) (cause : ModuleCause)
  | moduleStatus (module : Fin 30) (old new : Byte)
  | cycleOverrun (cut : Nat)
  | outputExpired (deadline : Byte)
  | linkState (old new : LinkState) (cause : LinkCause)
deriving DecidableEq, Repr

/-- A notice record in the queue (R171). -/
structure Notice where
  body : NoticeBody
  cycle : Half
deriving DecidableEq, Repr

/-- The notice unit. The pending set and the two enable sets are held as the bytes the host reads (R176, R178). -/
structure NoticeUnit where
  queue : List Notice
  lostCount : Nat
  overflow : Bool
  events : Byte
  intEnable : Byte
  attnEnable : Byte
  intLine : Bool
  attnLine : Bool
  attnOwed : Nat
deriving DecidableEq, Repr

/-! ### Register window (chapter 11) -/

/-- The eight units (Table 11-2). -/
inductive UnitId where
  | global | link | cycle | modules | image | slots | areas | notices
deriving DecidableEq, Repr

/-- Result codes (R183). -/
inductive ResultCode where
  | none | accepted | wrongState | badArgument | inUse | absent | areaBusy | noRoom | unknownCommand
deriving DecidableEq, Repr

/-- Window error causes (R184). -/
inductive WindowCause where
  | none | noUnit | noIndex | readOnly | wrongState | areaFull | areaEmpty
deriving DecidableEq, Repr

/-- The window error record (R184). -/
structure WindowError where
  cause : WindowCause
  unit : Byte
  index : Byte
  more : Bool
deriving DecidableEq, Repr

/-- What the read latch holds when it is not empty (R182). -/
structure Latch where
  unit : Byte
  index : Byte
  value : Byte
deriving DecidableEq, Repr

/-- The reset cause (R185). -/
inductive ResetCause where
  | power | platform
deriving DecidableEq, Repr

/-- The register window. `prst` is pin PRST# asserted; `dataOut` is the byte on D0 to D7 at the last DATA read. -/
structure RegisterWindow where
  unit : Byte
  index : Byte
  latch : Option Latch
  commands : Vector Byte 8
  results : Vector ResultCode 8
  error : WindowError
  resetCause : ResetCause
  prst : Bool
  dataOut : Byte
deriving DecidableEq, Repr

/-! ### The whole part -/

/-- The state of the part, and the commands waiting to be taken, oldest first. -/
structure State where
  window : RegisterWindow
  line : LineEngine
  link : LinkController
  sched : Scheduler
  table : ModuleTable
  image : ImageUnit
  exch : ExchangeUnit
  areas : AreaUnit
  notices : NoticeUnit
  pending : List Instr
deriving DecidableEq, Repr

/-- Why the model stops. -/
inductive Fault where
  /-- Raised by an event that ends a transaction, in a state in which a module in service has a map region that
  leaves the 1,024-byte image. R92: the image unit never meets such a region. Safe: no event of the part leads to
  such a state, and a claim about one says nothing about the hardware. -/
  | imageRegionOutside
  /-- Raised by an event that ends a transaction and by an access to the data port, in a state in which an area
  reaches beyond the 4,096-byte data memory. R129, R139: the layout never does. Safe, as above. -/
  | areaOutside
deriving DecidableEq, Repr

/-- Why a command has no meaning. -/
inductive Refusal where
  /-- Raised by an arm of `exec` whose command has no meaning yet. Safe: nothing is claimed of it. -/
  | notModelled (mnemonic : String)
deriving DecidableEq, Repr

/-- The window after power-on reset (R180, R182, R183, R184, R185). -/
def RegisterWindow.reset : RegisterWindow where
  unit := 0#8
  index := 0#8
  latch := none
  commands := Vector.replicate 8 0#8
  results := Vector.replicate 8 .none
  error := { cause := .none, unit := 0#8, index := 0#8, more := false }
  resetCause := .power
  prst := false
  dataOut := 0#8

/-- The line engine after power-on reset (R2, R4, R9). -/
def LineEngine.reset : LineEngine where
  txn := none
  echoFaults := 0
  bitRate := 1#8
  replyWindow := 40#8
  lde := false
  ltx := .idle

/-- The link controller after power-on reset (R22, R24, Table 2-2). -/
def LinkController.reset : LinkController where
  state := .off
  bitRate := 1#8
  replyWindow := 40#8
  threshold := 3#8
  lastOld := .off
  lastNew := .off
  lastCause := .none
  highSamples := 0

/-- The cycle record after either reset (R48). -/
def CycleRecord.reset : CycleRecord where
  number := 0#16
  scanned := 0
  cut := 0
  status := .none
  late := false

/-- The scheduler after power-on reset (R64). -/
def Scheduler.reset : Scheduler where
  cycleLength := 1250#16
  timer := .stopped
  cycleCounter := 0#16
  stage := .none
  scanLength := 0#8
  scanEntries := Vector.replicate 32 0#8
  scanPos := 0
  scanned := 0
  rrPtr := 7
  probePtr := 29
  searchVacant := false
  cancelDeferred := []
  lateStart := false
  record := CycleRecord.reset
  forSlot := none

/-- A module record after power-on reset (Table 4-1). -/
def ModuleRecord.reset : ModuleRecord where
  state := .vacant
  expectedType := 0#16
  inOffset := 0#16
  inLength := 0#8
  outOffset := 0#16
  outLength := 0#8
  watchMask := 0#8
  wasConfigured := false
  repType := 0#16
  repIn := 0#8
  repOut := 0#8
  repMax := 0#8
  mismatch := .none
  failCount := 0
  holder := .none
  cancelHold := 0
  waiting := []
  status := 0#8
  age := 255
  refreshed := false

/-- The module table after power-on reset (R90). -/
def ModuleTable.reset : ModuleTable where
  subject := 0
  records := Vector.replicate 30 ModuleRecord.reset

/-- The image unit after power-on reset (R108). -/
def ImageUnit.reset : ImageUnit where
  live := []
  held := []
  staging := []
  active := []
  heldAges := Vector.replicate 30 0
  heldCycle := 0#16
  follow := true
  freeze := false
  snapshotPending := false
  commitPending := false
  outputsValid := false
  supervision := 0
  deadline := 0#8
  select := 0
  page := 0

/-- A slot's host fields after either reset (Table 6-1). -/
def SlotHost.reset : SlotHost where
  moduleAddr := 0#8
  kind := 0#8
  tag := 0#16
  declared := 0#16
  area := 0
  pieceLimit := 64#8
  blockLength := 0#8
  block := Vector.replicate 16 0#8

/-- A slot after either reset (R128). -/
def Slot.reset : Slot where
  host := SlotHost.reset
  state := .free
  run := SlotRun.cleared
  inFlight := none

/-- The exchange unit after power-on reset (R128). -/
def ExchangeUnit.reset : ExchangeUnit where
  subject := 0
  slots := Vector.replicate 8 Slot.reset
  retryLimit := 3#8
  holdLimit := 64#8

/-- An empty, unbound area of 1,024 bytes (R140). -/
def AreaRecord.reset (start : Nat) : AreaRecord where
  size := 1024
  start := start
  fill := 0
  oldest := 0
  binding := none

/-- The area unit after power-on reset (R140). -/
def AreaUnit.reset : AreaUnit where
  subject := 0
  memory := []
  records := #v[AreaRecord.reset 0, AreaRecord.reset 1024, AreaRecord.reset 2048, AreaRecord.reset 3072]
  staged := Vector.replicate 4 16#8

/-- The notice unit after either reset (R179). -/
def NoticeUnit.reset : NoticeUnit where
  queue := []
  lostCount := 0
  overflow := false
  events := 0#8
  intEnable := 0#8
  attnEnable := 0#8
  intLine := false
  attnLine := false
  attnOwed := 0

/-- The part right after power-on reset, with no command waiting. -/
def State.reset : State where
  window := RegisterWindow.reset
  line := LineEngine.reset
  link := LinkController.reset
  sched := Scheduler.reset
  table := ModuleTable.reset
  image := ImageUnit.reset
  exch := ExchangeUnit.reset
  areas := AreaUnit.reset
  notices := NoticeUnit.reset
  pending := []

end Sys2Proof.Machine
end

