-- ==== Sys2Proof/Machine/Flags.lean ====
section
/-! DEFINITION. The flags of the notice unit: the pending event set, the two enable sets, the INT level and the ATTN pulses owed (chapter 10). -/

namespace Sys2Proof.Machine

/-- The bit of an event kind in SUMMARY, the clearing register and the enable sets (R188). -/
def EventKind.mask : EventKind → Byte
  | .noticeWaiting => 0x01#8
  | .cycleEnd => 0x02#8
  | .overrun => 0x04#8
  | .linkChange => 0x08#8
  | .outputExpired => 0x10#8
  | .noticeLost => 0x20#8
  | .windowError => 0x40#8

/-- Is an event kind in a set held as a byte? -/
def hasKind (set : Byte) (k : EventKind) : Bool := set &&& k.mask != 0#8

/-- A byte written to an enable set: bit 7 is kept as 0 (R176). -/
def enableByte (v : Byte) : Byte := v &&& 0x7F#8

/-- INT is asserted while at least one kind is both pending and in the INT enable set (R176). -/
def NoticeUnit.intLevel (n : NoticeUnit) : Bool := n.events &&& n.intEnable != 0#8

/-- INT follows each change of either set as the change is taken (R176). -/
def NoticeUnit.syncInt (n : NoticeUnit) : NoticeUnit := { n with intLine := n.intLevel }

/-- The pulses owed after an entry of kind `k`: one more when the kind is in the ATTN enable set, up to 15 (R177). -/
def NoticeUnit.owedAfterEntry (k : EventKind) (n : NoticeUnit) : Nat :=
  if hasKind n.attnEnable k && decide (n.attnOwed < Config.attnOwedMax) then n.attnOwed + 1 else n.attnOwed

/-- An entry of a kind into the pending set (R175, R176, R177). -/
def NoticeUnit.enter (k : EventKind) (n : NoticeUnit) : NoticeUnit :=
  { n with events := n.events ||| k.mask, attnOwed := n.owedAfterEntry k }.syncInt

/-- A raise: a kind that is not pending enters the set; one already pending stays, and that is no entry (R175). -/
def NoticeUnit.raise (k : EventKind) (n : NoticeUnit) : NoticeUnit :=
  if hasKind n.events k then n else n.enter k

/-- NOTICE_WAITING leaves the set when the queue count returns to 0 (R175). -/
def NoticeUnit.dropWaiting (n : NoticeUnit) : NoticeUnit :=
  { n with events := n.events &&& ~~~EventKind.noticeWaiting.mask }.syncInt

/-- A write of the clearing register removes each named kind other than NOTICE_WAITING (R175). -/
def NoticeUnit.clearNamed (v : Byte) (n : NoticeUnit) : NoticeUnit :=
  { n with events := n.events &&& ~~~(v &&& 0x7E#8) }.syncInt

/-- A write of the INT enable set takes effect on INT at once (R176). -/
def NoticeUnit.setIntEnable (v : Byte) (n : NoticeUnit) : NoticeUnit :=
  { n with intEnable := enableByte v }.syncInt

/-- A write of the ATTN enable set; kinds already pending owe nothing by it (R176, R177). -/
def NoticeUnit.setAttnEnable (v : Byte) (n : NoticeUnit) : NoticeUnit :=
  { n with attnEnable := enableByte v }

/-- A notice offered to a full queue is lost (R173): NOTICE_LOST at the first loss, then the count, then the
overflow flag. -/
def NoticeUnit.lose (n : NoticeUnit) : NoticeUnit :=
  let n1 := if n.lostCount = 0 then n.raise .noticeLost else n
  if n1.lostCount < Config.lostCountMax then { n1 with lostCount := n1.lostCount + 1 }
  else { n1 with overflow := true }

/-- A notice offered to the queue while the cycle counter reads `cycle` (R171, R172, R173). -/
def NoticeUnit.offer (cycle : Half) (body : NoticeBody) (n : NoticeUnit) : NoticeUnit :=
  if n.queue.length < Config.noticeCapacity then
    let n1 := { n with queue := n.queue ++ [{ body := body, cycle := cycle }] }
    if n.queue.isEmpty then n1.raise .noticeWaiting else n1
  else n.lose

/-- POP: the head record leaves; the last one takes NOTICE_WAITING with it (R174). -/
def NoticeUnit.pop (n : NoticeUnit) : NoticeUnit :=
  match n.queue with
  | [] => n
  | [_] => { n with queue := [] }.dropWaiting
  | _ :: rest => { n with queue := rest }

end Sys2Proof.Machine
end

