-- ==== Sys2Proof/Machine/Ops.lean ====
section
/-! DEFINITION. The named operations that the families share: byte memories and rings, the records of modules, slots and areas, notices and events, and the change of link state. -/

namespace Sys2Proof.Machine

/-! ### Bytes of a 16-bit field (R182; R189 sends the high byte first) -/

/-- The low byte of a 16-bit field. -/
def loByte (h : Half) : Byte := h.extractLsb' 0 8

/-- The high byte of a 16-bit field. -/
def hiByte (h : Half) : Byte := h.extractLsb' 8 8

/-- The 16-bit field with these bytes. -/
def halfOf (hi lo : Byte) : Half := hi ++ lo

/-- A 16-bit field on the line: high byte first (R189). -/
def lineBytes (h : Half) : List Byte := [hiByte h, loByte h]

/-! ### Byte memories -/

/-- The canonical form: addresses strictly rising, no cell equal to 00h. -/
abbrev Memory.wf (m : Memory) : Prop :=
  m.Pairwise (fun a b => a.1 < b.1) ∧ ∀ c ∈ m, c.2 ≠ 0#8

/-- What address `a` reads as. -/
def Memory.read : Memory → Nat → Byte
  | [], _ => 0#8
  | (k, v) :: rest, a => if k = a then v else Memory.read rest a

/-- Byte `v` at address `a`, keeping the canonical form. -/
def Memory.write : Memory → Nat → Byte → Memory
  | [], a, v => if v = 0#8 then [] else [(a, v)]
  | (k, x) :: rest, a, v =>
    if a < k then (if v = 0#8 then (k, x) :: rest else (a, v) :: (k, x) :: rest)
    else if a = k then (if v = 0#8 then rest else (a, v) :: rest)
    else (k, x) :: Memory.write rest a v

/-- The `n` bytes from address `a` on, in address order. -/
def Memory.readBytes (m : Memory) (a n : Nat) : List Byte :=
  (List.range n).map (fun i => m.read (a + i))

/-- Bytes written in order from address `a` on. -/
def Memory.writeBytes : Memory → Nat → List Byte → Memory
  | m, _, [] => m
  | m, a, b :: bs => Memory.writeBytes (m.write a b) (a + 1) bs

/-! ### Rings in the data memory (R129, R132) -/

/-- The data-memory address of ring position `p` of an area, wrapping at the area's size. -/
def AreaRecord.cell (r : AreaRecord) (p : Nat) : Nat := r.start + p % r.size

/-- Free room: size less fill (R132). -/
def AreaRecord.room (r : AreaRecord) : Nat := r.size - r.fill

/-- The oldest `n` bytes of an area in ring order; nothing is removed (R137). -/
def AreaRecord.peek (r : AreaRecord) (m : Memory) (n : Nat) : List Byte :=
  (List.range n).map (fun i => m.read (r.cell (r.oldest + i)))

/-- The oldest `n` bytes leave: the oldest position moves on, wrapping, and fill decreases (R134, R137). -/
def AreaRecord.consume (r : AreaRecord) (n : Nat) : AreaRecord :=
  { r with oldest := (r.oldest + n) % r.size, fill := r.fill - n }

/-- Bytes placed after the newest byte, in order (R133, R138). -/
def AreaRecord.place (r : AreaRecord) : Memory → List Byte → Memory
  | m, [] => m
  | m, b :: bs => AreaRecord.place { r with fill := r.fill + 1 } (m.write (r.cell (r.oldest + r.fill)) b) bs

/-- Fill after `n` bytes were placed. -/
def AreaRecord.grow (r : AreaRecord) (n : Nat) : AreaRecord := { r with fill := r.fill + n }

/-- An area emptied: fill 0 and oldest position 0 (R131, R135). -/
def AreaRecord.emptied (r : AreaRecord) : AreaRecord := { r with fill := 0, oldest := 0 }

/-! ### Records -/

/-- A function applied to every entry of a vector. -/
def mapVec {α β : Type} {n : Nat} (f : α → β) (v : Vector α n) : Vector β n :=
  ⟨(v.toList.map f).toArray, by simp⟩

/-- The modules in address order. -/
def allModules : List (Fin 30) :=
  [0, 1, 2, 3, 4, 5, 6, 7, 8, 9, 10, 11, 12, 13, 14, 15, 16, 17, 18, 19, 20, 21, 22, 23, 24, 25, 26, 27, 28, 29]

/-- The slots in slot-number order. -/
def allSlots : List (Fin 8) := [0, 1, 2, 3, 4, 5, 6, 7]

/-- The areas in area order. -/
def allAreas : List (Fin 4) := [0, 1, 2, 3]

/-- The record of module address `a`, for an address from 1 to 30 (R1). -/
def moduleIndex (a : Nat) : Option (Fin 30) :=
  if h : 1 ≤ a ∧ a ≤ 30 then some ⟨a - 1, by omega⟩ else none

/-- The address of a module record, 1 to 30 (R1). -/
def moduleAddress (k : Fin 30) : Nat := k.val + 1

/-- Slot `n` (R109). -/
def State.slotAt (s : State) (n : Fin 8) : Slot := s.exch.slots[n]

/-- Slot `n` replaced. -/
def State.setSlot (s : State) (n : Fin 8) (x : Slot) : State :=
  { s with exch := { s.exch with slots := s.exch.slots.set n x } }

/-- Slot `n` changed. -/
def State.updSlot (s : State) (n : Fin 8) (f : Slot → Slot) : State := s.setSlot n (f (s.slotAt n))

/-- The record of a module (R65). -/
def State.moduleAt (s : State) (k : Fin 30) : ModuleRecord := s.table.records[k]

/-- A module's record replaced. -/
def State.setModule (s : State) (k : Fin 30) (m : ModuleRecord) : State :=
  { s with table := { s.table with records := s.table.records.set k m } }

/-- A module's record changed. -/
def State.updModule (s : State) (k : Fin 30) (f : ModuleRecord → ModuleRecord) : State :=
  s.setModule k (f (s.moduleAt k))

/-- Area `a` (R132). -/
def State.areaAt (s : State) (a : Fin 4) : AreaRecord := s.areas.records[a]

/-- Area `a` replaced. -/
def State.setArea (s : State) (a : Fin 4) (r : AreaRecord) : State :=
  { s with areas := { s.areas with records := s.areas.records.set a r } }

/-- PRESENT or SUSPECT: the module is in service (Table 4-2). -/
def ModuleState.inService : ModuleState → Bool
  | .present | .suspect => true
  | .vacant | .expected | .lost | .found | .mismatch | .disabled => false

/-- EXPECTED, PRESENT or SUSPECT: a slot may queue for the module (R83, R117). -/
def ModuleState.takesSlots : ModuleState → Bool
  | .expected | .present | .suspect => true
  | .vacant | .lost | .found | .mismatch | .disabled => false

/-- The map's regions lie inside the 1,024-byte image (R72, R77). -/
def ModuleRecord.regionsInside (m : ModuleRecord) : Bool :=
  decide (m.inOffset.toNat + m.inLength.toNat ≤ Config.imageBytes) &&
    decide (m.outOffset.toNat + m.outLength.toNat ≤ Config.imageBytes)

/-- Every module in service has its regions inside the image (R92). -/
def State.regionsInside (s : State) : Bool :=
  allModules.all (fun k => !(s.moduleAt k).state.inService || (s.moduleAt k).regionsInside)

/-- An area lies inside the data memory (R129). -/
def AreaRecord.inside (r : AreaRecord) : Bool := decide (r.start + r.size ≤ Config.dataMemoryBytes)

/-- Every area lies inside the data memory (R129, R139). -/
def State.areasInside (s : State) : Bool := allAreas.all (fun a => (s.areaAt a).inside)

/-- A slot in OPENING, TRANSFERRING or CLOSING. -/
def SlotState.inPhase : SlotState → Bool
  | .opening | .transferring | .closing => true
  | .free | .queued | .abortPending | .aborted | .done | .failed => false

/-- DONE, FAILED or ABORTED (section 6.3). -/
def SlotState.ended : SlotState → Bool
  | .aborted | .done | .failed => true
  | .free | .queued | .opening | .transferring | .closing | .abortPending => false

/-- The state a phase names (R112). -/
def Phase.state : Phase → SlotState
  | .none => .queued
  | .opening => .opening
  | .transferring => .transferring
  | .closing => .closing

/-- The recorded phase that equals a slot's state (R112). -/
def SlotState.phase : SlotState → Phase
  | .opening => .opening
  | .transferring => .transferring
  | .closing => .closing
  | .free | .queued | .abortPending | .aborted | .done | .failed => .none

/-- The module a slot's host fields name, for an address from 1 to 30. -/
def Slot.module (x : Slot) : Option (Fin 30) := moduleIndex x.host.moduleAddr.toNat

/-- The area direction of a slot's kind: WRITE and READ pass data through an area, COMMAND_ONLY does not (R113). -/
def SlotHost.direction (h : SlotHost) : Option Direction :=
  if h.kind = 1#8 then some .write else if h.kind = 2#8 then some .read else none

/-! ### Notices and events -/

/-- A producer offers a notice; the notice unit fills in the cycle number (R171). -/
def State.offer (body : NoticeBody) (s : State) : State :=
  { s with notices := s.notices.offer s.sched.cycleCounter body }

/-- A block raises an event kind (R175). -/
def State.raise (k : EventKind) (s : State) : State := { s with notices := s.notices.raise k }

/-- A window error at the access under way: the first is written, a later one sets MORE; WINDOW_ERROR is raised
(R184). -/
def State.windowError (c : WindowCause) (s : State) : State :=
  let e := s.window.error
  let e' : WindowError :=
    if e.cause = .none then { cause := c, unit := s.window.unit, index := s.window.index, more := false }
    else { e with more := true }
  State.raise .windowError { s with window := { s.window with error := e' } }

/-! ### Link state -/

/-- A change of link state: the record, then the notice, then LINK_CHANGE (R24). -/
def changeLink (new : LinkState) (c : LinkCause) (s : State) : State :=
  let old := s.link.state
  State.raise .linkChange <| State.offer (.linkState old new c)
    { s with link := { s.link with state := new, lastOld := old, lastNew := new, lastCause := c } }

/-- RUNNING or STOPPING: cycles run, and the settings that must not change under them are refused (R39). -/
def LinkState.cycling : LinkState → Bool
  | .running | .stopping => true
  | .off | .checking | .idle | .fault => false

end Sys2Proof.Machine
end

