-- ==== Sys2Proof/Machine/Frames.lean ====
section
/-! DEFINITION. Frames of the module bus: kinds and their codes, the check, request frames, and the classification of a complete reply (chapter 1, section 11.8). -/

namespace Sys2Proof.Machine

/-- The code of a request kind (Table 1-3). -/
def RequestKind.code : RequestKind → Byte
  | .mark => 0x1#8
  | .scan => 0x2#8
  | .probe => 0x3#8
  | .openExchange => 0x4#8
  | .put => 0x5#8
  | .fetch => 0x6#8
  | .close => 0x7#8
  | .cancel => 0x8#8

/-- The reply kind a header's kind field names; 0h and the request kinds name none (Table 1-4, R16). -/
def replyKindOf (code : Byte) : Option ReplyKind :=
  if code = 0x9#8 then some .scanReply
  else if code = 0xA#8 then some .ident
  else if code = 0xB#8 then some .accept
  else if code = 0xC#8 then some .hold
  else if code = 0xD#8 then some .refuse
  else if code = 0xE#8 then some .data
  else if code = 0xF#8 then some .result
  else none

/-- The allowed replies of each request kind (Table 1-3). -/
def allowedReplies : RequestKind → List ReplyKind
  | .mark => []
  | .scan => [.scanReply]
  | .probe => [.ident]
  | .openExchange | .put | .cancel => [.accept, .hold, .refuse]
  | .fetch => [.data, .hold, .refuse]
  | .close => [.result, .hold, .refuse]

/-- One bit of the check: `crc` shifts toward its most significant end and takes 1021h when the bit leaving it
differs from the data bit (R6). -/
def crcBit (crc : Half) (bit : Bool) : Half :=
  if crc.msb != bit then (crc <<< 1) ^^^ 0x1021#16 else crc <<< 1

/-- One byte enters the check most significant bit first (R6). -/
def crcByte (crc : Half) (b : Byte) : Half :=
  [7, 6, 5, 4, 3, 2, 1, 0].foldl (fun c i => crcBit c (b.getLsbD i)) crc

/-- The check of header and payload: initial value FFFFh, no final inversion (R6). -/
def frameCheck (bytes : List Byte) : Half := bytes.foldl crcByte 0xFFFF#16

/-- The four header bytes of a frame (R5, R189). -/
def headerBytes (destination source : Nat) (seqBit : Bool) (kind : Byte) (length : Nat) : List Byte :=
  [BitVec.ofNat 8 destination &&& 0x1F#8, BitVec.ofNat 8 source &&& 0x1F#8,
    (if seqBit then 0x10#8 else 0#8) ||| (kind &&& 0x0F#8), BitVec.ofNat 8 length &&& 0x7F#8]

/-- Bytes followed by their check, high byte first (R6). -/
def withCheck (bytes : List Byte) : List Byte := bytes ++ lineBytes (frameCheck bytes)

/-- The request frame of a transaction, as its characters go out (R5, R6, R189). -/
def Txn.frame (t : Txn) : List Byte :=
  withCheck (headerBytes t.address 0 t.seqBit t.kind.code t.payload.length ++ t.payload)

/-- The request's characters as they are sent (R3, R11). -/
def Txn.sent (t : Txn) : List Character := sentCharacters t.frame

/-- Has the whole request been read back, every character equal to the one sent (R11)? -/
def Txn.echoedBy (t : Txn) (readBack : List Character) : Bool := readBack == t.sent

/-- Is the last character read back the first one that differs from the one sent (R12)? -/
def Txn.differsAtLast (t : Txn) (readBack : List Character) : Bool :=
  decide (readBack.length ≤ t.sent.length) && readBack.dropLast == t.sent.take (readBack.length - 1) &&
    readBack != t.sent.take readBack.length

/-- Characters in the request (section 1.3). -/
def Txn.characters (t : Txn) : Nat := 6 + t.payload.length

/-- A reply that passed every check of R16. -/
structure Reply where
  kind : ReplyKind
  payload : List Byte
  seqBit : Bool
deriving DecidableEq, Repr

/-- The six outcomes (Table 1-6); a MARK's REPLY is empty (R13). -/
inductive TxnOutcome where
  | reply (r : Option Reply)
  | timeout
  | corrupt
  | stray
  | echoFault
  | abandoned
deriving DecidableEq, Repr

/-- The exact payload length R8 gives a reply kind, where it gives one; for SCAN_REPLY it is the transaction's. -/
def exactReplyLength (t : Txn) : ReplyKind → Option Nat
  | .scanReply => t.exactLength
  | .ident => some 5
  | .accept => some 0
  | .hold => some 0
  | .refuse => some 1
  | .data => none
  | .result => none

/-- Test 5 of R16: the payload length, where the kind has an exact one. -/
def lengthFits (t : Txn) (k : ReplyKind) (length : Nat) : Bool :=
  match exactReplyLength t k with
  | some n => n == length
  | none => true

/-- Tests 2 to 5 of R16 on a frame with a good check. -/
def classifyChecked (t : Txn) (b0 b1 b2 : Byte) (payload : List Byte) : TxnOutcome :=
  if (b0 &&& 0x1F#8).toNat ≠ 0 then .stray
  else if (b1 &&& 0x1F#8).toNat ≠ t.address then .stray
  else
    match replyKindOf (b2 &&& 0x0F#8) with
    | none => .stray
    | some k =>
      if t.allowed.contains k && lengthFits t k payload.length then
        .reply (some { kind := k, payload := payload, seqBit := b2.getLsbD 4 })
      else .stray

/-- The classification of a reply that ended at its declared length (R16): the check first, then address, kind and
length. -/
def classifyReply (t : Txn) (frame : List Byte) : TxnOutcome :=
  match frame with
  | b0 :: b1 :: b2 :: b3 :: rest =>
    let payload := rest.take (headerLength b3)
    if lineBytes (frameCheck (b0 :: b1 :: b2 :: b3 :: payload)) = rest.drop (headerLength b3) then
      classifyChecked t b0 b1 b2 payload
    else .corrupt
  | _ => .corrupt

/-! ### Cost (R21) -/

/-- The cost of a transaction with a reply, in bit times (R21). -/
def txnCost (window request allowance : Nat) : Nat :=
  Config.gapBits + Config.characterBits * (6 + request) + window + Config.characterBits * (6 + allowance)

/-- The reply allowance of a request kind, for the input length of the map or the piece length asked for; a MARK draws
no reply (Table 1-8). -/
def replyAllowance (expected : Nat) : RequestKind → Nat
  | .mark => 0
  | .scan => 1 + expected
  | .probe => 5
  | .openExchange | .put | .cancel => 1
  | .fetch => expected
  | .close => 8

/-- The cost of a request of a kind and payload length: MARK has no window and no reply term (R21). -/
def requestCost (window : Nat) (k : RequestKind) (request expected : Nat) : Nat :=
  match k with
  | .mark => Config.gapBits + Config.characterBits * (6 + request)
  | .scan | .probe | .openExchange | .put | .fetch | .close | .cancel =>
    txnCost window request (replyAllowance expected k)

end Sys2Proof.Machine
end

