-- ==== Sys2Proof/Machine/Modules.lean ====
section
/-! DEFINITION. The shared operations of the module table (chapter 4): ends asked of the exchange unit, failure counting, loss, identification, the cancel, ages and the link-down mapping. -/

namespace Sys2Proof.Machine

/-! ### Entry of a slot into an ended state (R122, R123) -/

/-- The slot record on entry into an ended state: WAIT_AREA and the deferral mark are cleared, the rest stays
(R122). -/
def Slot.atEnd (st : SlotState) (c : Condition) (x : Slot) : Slot :=
  { x with state := st, run := { x.run with condition := c, waitArea := false, deferred := false } }

/-- A slot enters DONE, FAILED or ABORTED and its SLOT_ENDED notice is offered (R122, R123). -/
def enterEnded (n : Fin 8) (st : SlotState) (c : Condition) (s : State) : State :=
  State.offer (.slotEnded n st c (s.slotAt n).run.abortRequested) (s.updSlot n (Slot.atEnd st c))

/-- Slots ended FAILED one after the other with one condition (R124, R125). -/
def failSlots (c : Condition) : List (Fin 8) → State → State
  | [], s => s
  | n :: ns, s => failSlots c ns (enterEnded n .failed c s)

/-! ### Failure counting and loss -/

/-- The holder slot of a module that enters LOST ends FAILED with MODULE_LOST (R69 step 3). -/
def failHolder (h : Holder) (s : State) : State :=
  match h with
  | .slot n => enterEnded n .failed .moduleLost s
  | .none => s
  | .cancelPending _ => s

/-- A module enters LOST: state and count, notice, holder slot, holder, waiting slots, in this order (R69). -/
def enterLost (k : Fin 30) (c : ModuleCause) (s : State) : State :=
  let m := s.moduleAt k
  let s1 := s.setModule k { m with state := .lost, failCount := s.link.threshold.toNat }
  let s2 := State.offer (.moduleState k m.state .lost c) s1
  let s3 := (failHolder m.holder s2).updModule k (fun r => { r with holder := .none, cancelHold := 0 })
  (failSlots .moduleLost m.waiting s3).updModule k (fun r => { r with waiting := [] })

/-- One more failure of a module in service: SUSPECT below the threshold, LOST at it (R67, R68). -/
def countFailure (k : Fin 30) (s : State) : State :=
  let m := s.moduleAt k
  if m.failCount + 1 < s.link.threshold.toNat then
    s.setModule k { m with failCount := m.failCount + 1, state := .suspect }
  else enterLost k .failures s

/-- Failure counting (R67, R68); a module that has left service is not changed (R70). -/
def countOutcome (k : Fin 30) (o : TxnOutcome) (s : State) : State :=
  if (s.moduleAt k).state.inService then
    match o with
    | .reply _ => s.updModule k (fun m => { m with failCount := 0, state := .present })
    | .timeout => countFailure k s
    | .corrupt => countFailure k s
    | .stray => countFailure k s
    | .echoFault => s
    | .abandoned => s
  else s

/-! ### SCAN replies: age and status watch -/

/-- Does a watched bit differ between the stored and the new status byte (R87)? -/
def watchedChange (m : ModuleRecord) (new : Byte) : Bool := (m.status ^^^ new) &&& m.watchMask != 0#8

/-- The status watch (R87): a notice on a watched change, then the byte is stored. -/
def watchStatus (k : Fin 30) (new : Byte) (s : State) : State :=
  let m := s.moduleAt k
  let s1 := if watchedChange m new then State.offer (.moduleStatus k m.status new) s else s
  s1.updModule k (fun r => { r with status := new })

/-- A good SCAN_REPLY at the module table: count, age and refreshed mark, then the status watch (R59, R87, R88). -/
def takeScanReply (k : Fin 30) (payload : List Byte) (s : State) : State :=
  watchStatus k (payload.headD 0#8)
    (s.updModule k (fun m => { m with failCount := 0, state := .present, age := 0, refreshed := true }))

/-! ### Identification -/

/-- The payload of an IDENT (R189). -/
structure Ident where
  typeCode : Half
  inLength : Byte
  outLength : Byte
  maxPiece : Byte
deriving DecidableEq, Repr

/-- The fields of an IDENT payload, type code high byte first (R189). -/
def identOf (p : List Byte) : Ident where
  typeCode := halfOf (p.getD 0 0#8) (p.getD 1 0#8)
  inLength := p.getD 2 0#8
  outLength := p.getD 3 0#8
  maxPiece := p.getD 4 0#8

/-- The reported fields written from an IDENT (R65, R71). -/
def ModuleRecord.reported (i : Ident) (m : ModuleRecord) : ModuleRecord :=
  { m with repType := i.typeCode, repIn := i.inLength, repOut := i.outLength, repMax := i.maxPiece }

/-- The FORMAT check on the reported fields (R72). -/
def ModuleRecord.formatOk (m : ModuleRecord) : Bool :=
  decide (m.repIn.toNat ≤ Config.regionMax) && decide (m.repOut.toNat ≤ Config.regionMax) &&
    decide (1 ≤ m.repMax.toNat) && decide (m.repMax.toNat ≤ Config.payloadMax)

/-- The TYPE check (R72). -/
def ModuleRecord.typeOk (m : ModuleRecord) : Bool :=
  m.expectedType == Config.anyType || m.repType == m.expectedType

/-- The LENGTH check: reported lengths against the map, and the regions inside the image (R72). -/
def ModuleRecord.lengthOk (m : ModuleRecord) : Bool :=
  m.repIn == m.inLength && m.repOut == m.outLength && m.regionsInside

/-- The first identification check that fails, if one does (R72). -/
def ModuleRecord.identify (m : ModuleRecord) : MismatchCause :=
  if !m.formatOk then .format
  else if !m.typeOk then .type
  else if !m.lengthOk then .length
  else .none

/-- The record of a module that enters PRESENT by identification or ADOPT (R73, R78). -/
def ModuleRecord.enterPresent (m : ModuleRecord) : ModuleRecord :=
  { m with state := .present, failCount := 0, status := 0#8, age := 255, refreshed := false, mismatch := .none }

/-- The cause in the notice of a mismatch (R74). -/
def MismatchCause.notice : MismatchCause → ModuleCause
  | .none => .identified
  | .format => .mismatchFormat
  | .type => .mismatchType
  | .length => .mismatchLength

/-- A module enters MISMATCH: record, notice, then its waiting slots end (R74). -/
def enterMismatch (k : Fin 30) (c : MismatchCause) (s : State) : State :=
  let m := s.moduleAt k
  let s1 := s.setModule k
    { m with state := .mismatch, mismatch := c, failCount := 0, age := 255, refreshed := false }
  let s2 := State.offer (.moduleState k m.state .mismatch c.notice) s1
  (failSlots .moduleMismatch m.waiting s2).updModule k (fun r => { r with waiting := [] })

/-- An EXPECTED or LOST module whose reported fields were just written is judged (R72, R73, R74). -/
def judgeIdent (k : Fin 30) (s : State) : State :=
  let m := s.moduleAt k
  match m.identify with
  | .none =>
    State.offer (.moduleState k m.state .present (if m.state = .lost then .returned else .identified))
      (s.setModule k m.enterPresent)
  | .format => enterMismatch k .format s
  | .type => enterMismatch k .type s
  | .length => enterMismatch k .length s

/-- A VACANT address that answers with search-vacant on becomes FOUND (R75). -/
def enterFound (k : Fin 30) (i : Ident) (s : State) : State :=
  State.offer (.moduleState k .vacant .found .answered)
    (s.updModule k (fun m =>
      { m.reported i with state := .found, failCount := 0, age := 255, refreshed := false }))

/-- An IDENT by the state of the probed address at routing (R71). -/
def takeIdent (k : Fin 30) (i : Ident) (s : State) : State :=
  match (s.moduleAt k).state with
  | .expected => judgeIdent k (s.updModule k (ModuleRecord.reported i))
  | .lost => judgeIdent k (s.updModule k (ModuleRecord.reported i))
  | .vacant => if s.sched.searchVacant then enterFound k i s else s
  | .disabled => s
  | .present => s
  | .suspect => s
  | .found => s
  | .mismatch => s

/-- A PROBE outcome: a REPLY is an IDENT; every other outcome changes nothing (R58, R71). -/
def takeProbe (k : Fin 30) (o : TxnOutcome) (s : State) : State :=
  match o with
  | .reply (some r) => takeIdent k (identOf r.payload) s
  | .reply none => s
  | .timeout => s
  | .corrupt => s
  | .stray => s
  | .echoFault => s
  | .abandoned => s

/-! ### The CANCEL transaction -/

/-- ACCEPT or REFUSE to a CANCEL: the module is free (R85). -/
def endCancel (k : Fin 30) (s : State) : State :=
  s.updModule k (fun m => { m with holder := .none, cancelHold := 0 })

/-- The hold limit is set and a count has reached it (R86, R153). -/
def State.holdLimitReached (s : State) (count : Nat) : Bool :=
  s.exch.holdLimit != 0#8 && decide (s.exch.holdLimit.toNat ≤ count)

/-- HOLD to a CANCEL: the cancel hold count, up to 255, and CANCEL_FAILED at the hold limit (R85, R86). -/
def holdCancel (k : Fin 30) (s : State) : State :=
  let count := min 255 ((s.moduleAt k).cancelHold + 1)
  let s1 := s.updModule k (fun m => { m with cancelHold := count })
  if s.holdLimitReached count then enterLost k .cancelFailed s1 else s1

/-- The holder by the CANCEL outcome, for a module still in service with its cancel pending (R84, R85). -/
def settleCancel (k : Fin 30) (o : TxnOutcome) (s : State) : State :=
  match (s.moduleAt k).holder with
  | .cancelPending _ =>
    match o with
    | .reply (some r) =>
      match r.kind with
      | .accept => endCancel k s
      | .refuse => endCancel k s
      | .hold => holdCancel k s
      | .scanReply => s
      | .ident => s
      | .data => s
      | .result => s
    | .reply none => s
    | .timeout => s
    | .corrupt => s
    | .stray => s
    | .echoFault => s
    | .abandoned => s
  | .none => s
  | .slot _ => s

/-- The outcomes after which a CANCEL waits for the next cycle start (R52). -/
def TxnOutcome.defersCancel : TxnOutcome → Bool
  | .reply (some r) => r.kind == .hold
  | .reply none => false
  | .timeout => true
  | .corrupt => true
  | .stray => true
  | .echoFault => false
  | .abandoned => false

/-- The module's address joins the cancel-deferred set, which holds each address at most once (R52). -/
def deferCancel (k : Fin 30) (s : State) : State :=
  if s.sched.cancelDeferred.contains k then s
  else { s with sched := { s.sched with cancelDeferred := s.sched.cancelDeferred ++ [k] } }

/-- A CANCEL outcome: failure counting, the holder, then the cancel-deferred set (R52, R84, R85). -/
def takeCancel (k : Fin 30) (o : TxnOutcome) (s : State) : State :=
  let s1 := countOutcome k o s
  let s2 := if (s1.moduleAt k).state.inService then settleCancel k o s1 else s1
  if o.defersCancel then deferCancel k s2 else s2

/-! ### Ages (R88) -/

/-- PRESENT, SUSPECT or LOST: the states in which inputs age (R88). -/
def ModuleState.ages : ModuleState → Bool
  | .present | .suspect | .lost => true
  | .vacant | .expected | .found | .mismatch | .disabled => false

/-- A module's age at a cycle end, and its refreshed mark cleared (R88). -/
def ModuleRecord.aged (m : ModuleRecord) : ModuleRecord :=
  { m with
    age := if m.state.ages && !m.refreshed then min 255 (m.age + 1) else m.age
    refreshed := false }

/-- The age update of a cycle end (R47 step 1, R88). -/
def updateAges (s : State) : State :=
  { s with table := { s.table with records := mapVec ModuleRecord.aged s.table.records } }

/-! ### The link-down mapping (R89) -/

/-- The state after the mapping (R89). -/
def ModuleState.linkDown : ModuleState → ModuleState
  | .present => .expected
  | .suspect => .expected
  | .lost => .expected
  | .mismatch => .expected
  | .found => .vacant
  | .vacant => .vacant
  | .expected => .expected
  | .disabled => .disabled

/-- A record under the link-down mapping (R89). -/
def ModuleRecord.linkDown (m : ModuleRecord) : ModuleRecord :=
  { m with
    state := m.state.linkDown
    failCount := 0
    cancelHold := 0
    holder := .none
    waiting := []
    refreshed := false
    mismatch := .none
    age := 255 }

/-- The module table's effect of the link-down step (R36, R89). -/
def mapModulesDown (s : State) : State :=
  { s with table := { s.table with records := mapVec ModuleRecord.linkDown s.table.records } }

end Sys2Proof.Machine
end

