-- ==== Sys2Proof/Machine/Slots.lean ====
section
/-! DEFINITION. The shared operations of the exchange unit and of its areas (chapters 6 to 9): holders, queueing, the effective piece and the area gate, and the taking of an outcome in each phase. -/

namespace Sys2Proof.Machine

/-! ### The module a slot names -/

/-- The record of the module a slot names, changed; nothing where the address is no module's. -/
def State.updModuleOf (s : State) (x : Slot) (f : ModuleRecord → ModuleRecord) : State :=
  match x.module with
  | some k => s.updModule k f
  | none => s

/-- Is the module a slot names EXPECTED, PRESENT or SUSPECT (R117, R121, R166)? -/
def State.moduleTakesSlot (s : State) (x : Slot) : Bool :=
  match x.module with
  | some k => (s.moduleAt k).state.takesSlots
  | none => false

/-- The slot number joins the tail of a waiting list (R83). -/
def ModuleRecord.append (n : Fin 8) (m : ModuleRecord) : ModuleRecord := { m with waiting := m.waiting ++ [n] }

/-- The slot number leaves a waiting list wherever it stands, the order of the rest kept (R83). -/
def ModuleRecord.remove (n : Fin 8) (m : ModuleRecord) : ModuleRecord :=
  { m with waiting := m.waiting.filter (· != n) }

/-- The claim: the head leaves the list and the slot becomes holder (R82). -/
def ModuleRecord.claim (n : Fin 8) (m : ModuleRecord) : ModuleRecord :=
  { m with waiting := m.waiting.tail, holder := .slot n }

/-- The release: a holder that is this slot becomes NONE (R82). -/
def ModuleRecord.release (n : Fin 8) (m : ModuleRecord) : ModuleRecord :=
  if m.holder = .slot n then { m with holder := .none } else m

/-- The release for cancel: a holder that is this slot becomes CANCEL_PENDING with its tag (R82). -/
def ModuleRecord.releaseForCancel (n : Fin 8) (tag : Half) (m : ModuleRecord) : ModuleRecord :=
  if m.holder = .slot n then { m with holder := .cancelPending tag, cancelHold := 0 } else m

/-- The slot enters QUEUED and joins its module's waiting list (R118, R121, R166). -/
def enqueueSlot (n : Fin 8) (s : State) : State :=
  (s.updSlot n (fun x => { x with state := .queued })).updModuleOf (s.slotAt n) (ModuleRecord.append n)

/-- The pick from QUEUED: the claim, then OPENING (R119). -/
def pickFromQueued (n : Fin 8) (s : State) : State :=
  (s.updModuleOf (s.slotAt n) (ModuleRecord.claim n)).updSlot n (fun x =>
    { x with state := .opening, run := { x.run with recordedPhase := .opening } })

/-! ### Endings (R114, R158) -/

/-- The endings that leave a cancel owed at the module (Table 6-4, R158). -/
def Condition.owesCancel : Condition → Bool
  | .retries | .holdExpired | .longData | .resultBad => true
  | .none | .ok | .refused | .resultError | .moduleLost | .moduleMismatch | .linkDown | .linkFault => false

/-- The state an ending of chapter 8 leads to (Table 6-4). -/
def Condition.endState : Condition → SlotState
  | .ok => .done
  | .none | .refused | .retries | .holdExpired | .longData | .resultBad | .resultError
  | .moduleLost | .moduleMismatch | .linkDown | .linkFault => .failed

/-- An ending of chapter 8: the holder is settled, the slot ends, its notice is offered (R158). -/
def finishExchange (n : Fin 8) (c : Condition) (s : State) : State :=
  let x := s.slotAt n
  enterEnded n c.endState c <| s.updModuleOf x <|
    if c.owesCancel then ModuleRecord.releaseForCancel n x.host.tag else ModuleRecord.release n

/-! ### The effective piece and the area gate -/

/-- The effective piece: the smallest of piece limit, the module's maximum piece and the bytes still to move
(R144). -/
def effectivePiece (x : Slot) (s : State) : Nat :=
  let maxPiece := match x.module with
    | some k => (s.moduleAt k).repMax.toNat
    | none => 0
  min x.host.pieceLimit.toNat (min maxPiece (x.host.declared.toNat - x.run.bytesMoved))

/-- The area gate of a slot in TRANSFERRING (R145). -/
def gateMet (x : Slot) (s : State) : Bool :=
  let r := s.areaAt x.host.area
  match x.host.direction with
  | some .write => decide (effectivePiece x s ≤ r.fill)
  | some .read => decide (effectivePiece x s ≤ r.room)
  | none => false

/-! ### Taking an outcome (chapter 8) -/

/-- The phase an outcome is applied in: the slot's state, or in ABORT_PENDING its recorded phase (R146). -/
def Slot.atPhase (p : Phase) (x : Slot) : Slot :=
  { x with
    state := if x.state = .abortPending then .abortPending else p.state
    run := { x.run with recordedPhase := p } }

/-- A reply of the exchange returns both counts to 0 (R155, Table 8-2). -/
def Slot.progressed (x : Slot) : Slot := { x with run := { x.run with errCount := 0, holdCount := 0 } }

/-- An error of a slot (R155): count, kind and deferral, then RETRIES at the retry limit. -/
def slotError (n : Fin 8) (e : ErrorKind) (s : State) : State :=
  let count := (s.slotAt n).run.errCount + 1
  let s1 := s.updSlot n (fun x =>
    { x with run := { x.run with errCount := count, lastError := e, deferred := true } })
  if s.exch.retryLimit.toNat ≤ count then finishExchange n .retries s1 else s1

/-- HOLD (R153): counts and deferral, then HOLD_EXPIRED at the hold limit. -/
def slotHold (n : Fin 8) (s : State) : State :=
  let count := min 255 ((s.slotAt n).run.holdCount + 1)
  let s1 := s.updSlot n (fun x =>
    { x with run := { x.run with errCount := 0, holdCount := count, deferred := true } })
  if s.holdLimitReached count then finishExchange n .holdExpired s1 else s1

/-- REFUSE (R154): the reason byte is recorded and the slot ends REFUSED. -/
def slotRefused (n : Fin 8) (reason : Byte) (s : State) : State :=
  finishExchange n .refused (s.updSlot n (fun x => { x with run := { x.run with refuseReason := reason } }))

/-- ACCEPT of an OPEN (R147). -/
def openAccepted (n : Fin 8) (s : State) : State :=
  s.updSlot n (fun x =>
    Slot.atPhase (if x.host.declared = 0#16 then .closing else .transferring)
      { x.progressed with run := { x.progressed.run with putSeq := false, fetchSeq := false } })

/-- The phase after a piece is settled: CLOSING when all declared bytes have moved (R148, R151). -/
def Slot.afterPiece (x : Slot) : Slot :=
  if x.run.bytesMoved = x.host.declared.toNat then x.atPhase .closing else x

/-- ACCEPT of a PUT of `e` bytes sent with `bit` (R148). -/
def putAccepted (n : Fin 8) (e : Nat) (bit : Bool) (s : State) : State :=
  let a := (s.slotAt n).host.area
  (s.setArea a ((s.areaAt a).consume e)).updSlot n (fun x =>
    Slot.afterPiece
      { x.progressed with run := { x.progressed.run with bytesMoved := x.run.bytesMoved + e, putSeq := !bit } })

/-- Bytes appended to an area (R133, R138). -/
def appendToArea (a : Fin 4) (bytes : List Byte) (s : State) : State :=
  let r := s.areaAt a
  ({ s with areas := { s.areas with memory := r.place s.areas.memory bytes } }).setArea a (r.grow bytes.length)

/-- The slot after a DATA reply of `k` bytes to a FETCH of `e` was accepted (R151). -/
def Slot.afterData (e k : Nat) (x : Slot) : Slot :=
  let y : Slot := { x.progressed with
    run := { x.progressed.run with bytesMoved := x.run.bytesMoved + k, fetchSeq := !x.run.fetchSeq } }
  if k < e then Slot.atPhase .closing { y with run := { y.run with short := true } } else y.afterPiece

/-- A DATA reply to a FETCH of `e` bytes sent with `bit`: length test, sequence test, then the piece (R149 to
R151). -/
def dataReply (n : Fin 8) (e : Nat) (bit : Bool) (r : Reply) (s : State) : State :=
  let k := r.payload.length
  if e < k then finishExchange n .longData s
  else if r.seqBit != bit then slotError n .seqSlip s
  else (appendToArea (s.slotAt n).host.area r.payload s).updSlot n (Slot.afterData e k)

/-- The three checks of a RESULT payload (R152). -/
def resultChecked (tag : Half) (p : List Byte) : Bool :=
  p.length == 8 && p.getD 0 0#8 == Config.resultMarker && halfOf (p.getD 1 0#8) (p.getD 2 0#8) == tag

/-- The fields recorded from a checked RESULT, high byte first (R152, R189). -/
def Slot.recordResult (p : List Byte) (x : Slot) : Slot :=
  { x.progressed with
    run := { x.progressed.run with
      resultCode := p.getD 3 0#8
      residue := halfOf (p.getD 4 0#8) (p.getD 5 0#8)
      detail := halfOf (p.getD 6 0#8) (p.getD 7 0#8) } }

/-- A RESULT reply to CLOSE (R152). -/
def resultReply (n : Fin 8) (p : List Byte) (s : State) : State :=
  if resultChecked (s.slotAt n).host.tag p then
    finishExchange n (if p.getD 3 0#8 = 0#8 then .ok else .resultError) (s.updSlot n (Slot.recordResult p))
  else finishExchange n .resultBad s

/-- A REPLY to the slot's request, by its kind (Table 8-1). -/
def slotReply (n : Fin 8) (q : SlotRequest) (r : Reply) (s : State) : State :=
  match r.kind with
  | .hold => slotHold n s
  | .refuse => slotRefused n (r.payload.headD 0#8) s
  | .accept =>
    match q with
    | .openExchange => openAccepted n s
    | .put e bit => putAccepted n e bit s
    | .fetch _ _ => s
    | .close => s
  | .data =>
    match q with
    | .fetch e bit => dataReply n e bit r s
    | .openExchange => s
    | .put _ _ => s
    | .close => s
  | .result =>
    match q with
    | .close => resultReply n r.payload s
    | .openExchange => s
    | .put _ _ => s
    | .fetch _ _ => s
  | .scanReply => s
  | .ident => s

/-- An outcome by the rules of chapter 8 (R146 step 3, R155, R157). -/
def applySlotOutcome (n : Fin 8) (q : SlotRequest) (o : TxnOutcome) (s : State) : State :=
  match o with
  | .reply (some r) => slotReply n q r s
  | .reply none => s
  | .timeout => slotError n .timeout s
  | .corrupt => slotError n .corrupt s
  | .stray => slotError n .stray s
  | .echoFault => s
  | .abandoned => s

/-- An ABORT_PENDING slot that the outcome did not end enters ABORTED (R163). -/
def resolveAbort (n : Fin 8) (s : State) : State :=
  if (s.slotAt n).state = .abortPending then enterEnded n .aborted .none s else s

/-- The slot takes an outcome: it is in a phase or in ABORT_PENDING, and was not ended by the module table (R146). -/
def Slot.takesOutcome (x : Slot) : Bool := x.state.inPhase || x.state == .abortPending

/-- The exchange unit takes the outcome of a slot's transaction, and the request in flight is removed (R141, R146,
R163). -/
def takeSlotOutcome (n : Fin 8) (o : TxnOutcome) (s : State) : State :=
  let x := s.slotAt n
  match x.inFlight with
  | none => s
  | some q =>
    let s1 := if x.takesOutcome && o != .abandoned then resolveAbort n (applySlotOutcome n q o s) else s
    s1.updSlot n (fun y => { y with inFlight := none })

/-! ### Outside endings (R126, R168) -/

/-- The slots the link-down step ends (R126). -/
def SlotState.endedByLinkDown : SlotState → Bool
  | .queued | .opening | .transferring | .closing | .abortPending | .aborted => true
  | .free | .done | .failed => false

/-- The exchange unit's effect of the link-down step, in slot-number order (R126). -/
def failSlotsDown (c : Condition) : List (Fin 8) → State → State
  | [], s => s
  | n :: ns, s =>
    failSlotsDown c ns (if (s.slotAt n).state.endedByLinkDown then enterEnded n .failed c s else s)

/-- A slot in a phase is aborted between transactions: its phase is kept and abort-requested is clear (R161, R168). -/
def abortInPhase (n : Fin 8) (s : State) : State :=
  enterEnded n .aborted .none (s.updSlot n (fun x =>
    { x with run := { x.run with recordedPhase := x.state.phase, abortRequested := false } }))

/-- The exchange unit's effect of the STOP_DONE entry, in slot-number order (R168). -/
def abortSlots : List (Fin 8) → State → State
  | [], s => s
  | n :: ns, s => abortSlots ns (if (s.slotAt n).state.inPhase then abortInPhase n s else s)

/-- The deferral marks of all slots are cleared at a cycle start (R42, R55). -/
def clearDeferrals (s : State) : State :=
  { s with exch := { s.exch with
      slots := mapVec (fun x : Slot => { x with run := { x.run with deferred := false } }) s.exch.slots } }

end Sys2Proof.Machine
end

