-- ==== Sys2Proof/Machine/Image.lean ====
section
/-! DEFINITION. The shared operations of the image unit (chapter 5): regions, SCAN input, the cycle-end copy, the cycle-start step and its link-down effect. -/

namespace Sys2Proof.Machine

/-- The output bytes of a module: its output region of the active output image (R92, R100). -/
def outputBytes (m : ModuleRecord) (i : ImageUnit) : List Byte :=
  i.active.readBytes m.outOffset.toNat m.outLength.toNat

/-- Input bytes written into a module's input region of the live input image (R93). -/
def writeInputs (m : ModuleRecord) (bytes : List Byte) (i : ImageUnit) : ImageUnit :=
  { i with live := i.live.writeBytes m.inOffset.toNat bytes }

/-- A SCAN outcome: the image unit first, then the module table (R58, R59, R67, R93). A module that has left service
takes nothing (R70). -/
def takeScan (k : Fin 30) (o : TxnOutcome) (s : State) : State :=
  match o with
  | .reply (some r) =>
    if (s.moduleAt k).state.inService then
      takeScanReply k r.payload { s with image := writeInputs (s.moduleAt k) (r.payload.drop 1) s.image }
    else s
  | .reply none => s
  | .timeout => countOutcome k .timeout s
  | .corrupt => countOutcome k .corrupt s
  | .stray => countOutcome k .stray s
  | .echoFault => s
  | .abandoned => s

/-- Is a cycle-end copy due (Table of R98)? -/
def ImageUnit.copyDue (i : ImageUnit) : Bool := !i.freeze && (i.follow || i.snapshotPending)

/-- The cycle-end copy (R94, R98): held image, held ages and held cycle number in one step. -/
def cycleEndCopy (s : State) : State :=
  if s.image.copyDue then
    { s with image := { s.image with
        held := s.image.live
        heldAges := mapVec (fun m : ModuleRecord => m.age) s.table.records
        heldCycle := s.sched.cycleCounter
        snapshotPending := false } }
  else s

/-- A commit applied (R102). -/
def ImageUnit.applyCommit (i : ImageUnit) : ImageUnit :=
  { i with active := i.staging, commitPending := false, supervision := 0, outputsValid := true }

/-- Supervision advanced, with the expiry of the outputs when the deadline is reached (R103). -/
def advanceSupervision (s : State) : State :=
  let i := s.image
  if i.deadline = 0#8 then s
  else
    let count := min 255 (i.supervision + 1)
    if decide (i.deadline.toNat ≤ count) && i.outputsValid then
      State.raise .outputExpired <| State.offer (.outputExpired i.deadline)
        { s with image := { i with supervision := count, outputsValid := false } }
    else { s with image := { i with supervision := count } }

/-- The image unit's cycle-start step (R102, R103). -/
def imageCycleStart (s : State) : State :=
  if s.image.commitPending then { s with image := s.image.applyCommit } else advanceSupervision s

/-- The image unit's effect of the link-down step (R107). -/
def ImageUnit.linkDown (i : ImageUnit) : ImageUnit :=
  { i with outputsValid := false, supervision := 0, commitPending := false }

end Sys2Proof.Machine
end

