-- ==== Sys2Proof/Machine/Cycle.lean ====
section
/-! DEFINITION. The shared operations of the cycle scheduler (chapter 3): starting transactions, the walk, the picks, the probe stage, cycle start and cycle end, and the routing of outcomes. -/

namespace Sys2Proof.Machine

/-! ### Time -/

/-- The budget: the bit times the timer has remaining (R40). -/
def CycleTimer.budget : CycleTimer → Nat
  | .stopped => 0
  | .running r => r
  | .expired => 0

/-- Bit times pass while a transaction is in flight: a running timer loses them and expires where more than it has
left go by; where exactly all go by, the expiry and the line event come at one moment and either may be taken first
(R40, R49, log entry 10). A stopped or expired timer stays. -/
def CycleTimer.elapse (d : Nat) : CycleTimer → CycleTimer
  | .stopped => .stopped
  | .running r => if r < d then .expired else .running (r - d)
  | .expired => .expired

/-- Bit times pass at the scheduler. -/
def State.elapse (d : Nat) (s : State) : State := { s with sched := { s.sched with timer := s.sched.timer.elapse d } }

/-- The budget of the current cycle (R40). -/
def State.budget (s : State) : Nat := s.sched.timer.budget

/-- The reply window of the line configuration in use, in bit times (R2). -/
def State.window0 (s : State) : Nat := s.line.replyWindow.toNat

/-! ### Starting a transaction -/

/-- What the scheduler hands the line engine (R9). -/
structure Request where
  kind : RequestKind
  address : Nat
  payload : List Byte
  seqBit : Bool
  exactLength : Option Nat
  forSlot : Option (Fin 8)
deriving DecidableEq, Repr

/-- The transaction record created in phase GAP (R9, R10). -/
def Request.txn (q : Request) : Txn where
  kind := q.kind
  address := q.address
  payload := q.payload
  seqBit := q.seqBit
  allowed := allowedReplies q.kind
  exactLength := q.exactLength
  phase := .gap
  received := []
  settling := none

/-- The scheduler starts a transaction: record in phase GAP, pair driven at the idle level (R10, R50). -/
def startTxn (q : Request) (s : State) : State :=
  { s with
    line := { s.line with txn := some q.txn, lde := true, ltx := .idle }
    sched := { s.sched with forSlot := q.forSlot } }

/-- The MARK of a cycle (R43). -/
def markRequest (s : State) : Request where
  kind := .mark
  address := Config.broadcast
  payload := [loByte s.sched.cycleCounter, if s.image.outputsValid then 0x01#8 else 0#8]
  seqBit := false
  exactLength := none
  forSlot := none

/-- A SCAN to a module in service (R45, R100). -/
def scanRequest (k : Fin 30) (s : State) : Request where
  kind := .scan
  address := moduleAddress k
  payload := outputBytes (s.moduleAt k) s.image
  seqBit := false
  exactLength := some (1 + (s.moduleAt k).inLength.toNat)
  forSlot := none

/-- The cost of the MARK of a cycle: two payload bytes (R21). -/
def markCost (s : State) : Nat := requestCost s.window0 .mark 2 0

/-- The cost of a SCAN to a module: its output length out, its input length back (R21). -/
def scanCost (k : Fin 30) (s : State) : Nat :=
  requestCost s.window0 .scan (s.moduleAt k).outLength.toNat (s.moduleAt k).inLength.toNat

/-- A PROBE (R57). -/
def probeRequest (k : Fin 30) : Request where
  kind := .probe
  address := moduleAddress k
  payload := []
  seqBit := false
  exactLength := none
  forSlot := none

/-- A CANCEL with the tag of the pending cancel (R84). -/
def cancelRequest (k : Fin 30) (tag : Half) : Request where
  kind := .cancel
  address := moduleAddress k
  payload := lineBytes tag
  seqBit := false
  exactLength := none
  forSlot := none

/-- The direction code of OPEN (section 1.4): 0 command only, 1 write, 2 read. -/
def SlotHost.directionCode (h : SlotHost) : Byte :=
  match h.direction with
  | some .write => 1#8
  | some .read => 2#8
  | none => 0#8

/-- The payload of OPEN: tag, direction, declared length, and the command block cut to its length (R142, R189). -/
def openPayload (h : SlotHost) : List Byte :=
  lineBytes h.tag ++ [h.directionCode] ++ lineBytes h.declared ++ h.block.toList.take h.blockLength.toNat

/-- The slot's request in flight that a picked slot's state calls for (R141, R142). -/
def slotRequestOf (x : Slot) (s : State) : SlotRequest :=
  match x.state with
  | .transferring =>
    if x.host.direction = some .write then .put (effectivePiece x s) x.run.putSeq
    else .fetch (effectivePiece x s) x.run.fetchSeq
  | .closing => .close
  | .free | .queued | .opening | .abortPending | .aborted | .done | .failed => .openExchange

/-- The request frame's contents for a slot's request (R142). -/
def slotTxn (n : Fin 8) (x : Slot) (q : SlotRequest) (s : State) : Request where
  kind := match q with
    | .openExchange => .openExchange
    | .put _ _ => .put
    | .fetch _ _ => .fetch
    | .close => .close
  address := x.host.moduleAddr.toNat
  payload := match q with
    | .openExchange => openPayload x.host
    | .put e _ => (s.areaAt x.host.area).peek s.areas.memory e
    | .fetch e _ => [BitVec.ofNat 8 e]
    | .close => []
  seqBit := match q with
    | .openExchange => false
    | .put _ bit => bit
    | .fetch _ bit => bit
    | .close => false
  exactLength := none
  forSlot := some n

/-! ### Cycle end and cycle start -/

/-- The cycle record at a cycle end (R48). -/
def cycleRecordAt (status : CycleStatus) (cut : Nat) (c : Scheduler) : CycleRecord where
  number := c.cycleCounter
  scanned := c.scanned
  cut := cut
  status := status
  late := c.lateStart

/-- The CYCLE_OVERRUN notice and OVERRUN of an overrun's cycle end (R46, R47 step 4). -/
def overrunReport (status : CycleStatus) (cut : Nat) (s : State) : State :=
  if status = .overrun then State.raise .overrun (State.offer (.cycleOverrun cut) s) else s

/-- The cycle end: ages, copy, record, overrun report, CYCLE_END, in this order (R47). -/
def cycleEnd (status : CycleStatus) (cut : Nat) (s : State) : State :=
  let s1 := cycleEndCopy (updateAges s)
  let s2 : State := { s1 with sched := { s1.sched with record := cycleRecordAt status cut s1.sched } }
  State.raise .cycleEnd (overrunReport status cut s2)

/-- The entries from the scan position to the end of the list (R46, R61). -/
def State.entriesLeft (s : State) : Nat := s.sched.scanLength.toNat - s.sched.scanPos

/-- Steps 1, 2, 4 and 5 of a cycle start, and the emptied cancel-deferred set of step 3 (R42). -/
def Scheduler.beginCycle (late : Bool) (c : Scheduler) : Scheduler :=
  { c with
    cycleCounter := c.cycleCounter + 1#16
    timer := .running (c.cycleLength.toNat * Config.cycleUnitBits)
    cancelDeferred := []
    lateStart := late
    scanPos := 0
    scanned := 0 }

/-- The cycle start (R42): counter, timer, deferrals, late flag, scan position, image step, MARK. -/
def cycleStart (late : Bool) (s : State) : State :=
  let s1 := imageCycleStart (clearDeferrals { s with sched := s.sched.beginCycle late })
  let s2 : State := { s1 with sched := { s1.sched with stage := .mark } }
  startTxn (markRequest s2) s2

/-- The overrun cut: the cycle end with the entries left, then the next cycle (R46). -/
def overrunCut (late : Bool) (s : State) : State := cycleStart late (cycleEnd .overrun s.entriesLeft s)

/-! ### The probe stage -/

/-- Is an address a probe candidate (R56)? -/
def probeCandidate (s : State) (k : Fin 30) : Bool :=
  match (s.moduleAt k).state with
  | .expected => true
  | .lost => true
  | .vacant => s.sched.searchVacant
  | .present | .suspect | .found | .mismatch | .disabled => false

/-- The addresses from the rotation pointer on, the pointer itself last (R57). -/
def probeOrder (p : Fin 30) : List (Fin 30) :=
  allModules.filter (fun k => decide (p < k)) ++ allModules.filter (fun k => decide (k ≤ p))

/-- The stage REST: no transaction until the timer expires (R57). -/
def enterRest (s : State) : State := { s with sched := { s.sched with stage := .rest } }

/-- Stage PROBE on entry: at most one PROBE, to the first candidate after the pointer, if it fits (R57). -/
def probeStage (s : State) : State :=
  match (probeOrder s.sched.probePtr).find? (probeCandidate s) with
  | some k =>
    if requestCost s.window0 .probe 0 0 ≤ s.budget then
      startTxn (probeRequest k) { s with sched := { s.sched with stage := .probe, probePtr := k } }
    else enterRest s
  | none => enterRest s

/-! ### The acyclic stage -/

/-- The pending tag of a module that is a cancel candidate (R52). -/
def cancelTag (s : State) (k : Fin 30) : Option Half :=
  match (s.moduleAt k).holder with
  | .cancelPending tag =>
    if (s.moduleAt k).state.inService && !s.sched.cancelDeferred.contains k then some tag else none
  | .none => none
  | .slot _ => none

/-- The first cancel candidate, lowest module address first (R51, R52). -/
def cancelCandidate (s : State) : Option (Fin 30 × Half) :=
  allModules.findSome? (fun k => (cancelTag s k).map (fun t => (k, t)))

/-- A QUEUED slot is eligible at the head of its list, its module in service with holder NONE (R53). -/
def queuedEligible (n : Fin 8) (x : Slot) (s : State) : Bool :=
  match x.module with
  | some k =>
    (s.moduleAt k).waiting.head? == some n && (s.moduleAt k).state.inService && (s.moduleAt k).holder == .none
  | none => false

/-- The slots in round-robin order: after the last served one, that one last (R53). -/
def slotOrder (p : Fin 8) : List (Fin 8) :=
  allSlots.filter (fun n => decide (p < n)) ++ allSlots.filter (fun n => decide (n ≤ p))

/-- WAIT_AREA as the gate was judged (R145). -/
def markWaitArea (n : Fin 8) (waiting : Bool) (s : State) : State :=
  s.updSlot n (fun x => { x with run := { x.run with waitArea := waiting } })

/-- Is the slot one whose area gate the search judges (R53, R145)? -/
def Slot.gateJudged (x : Slot) : Bool := x.state == .transferring && !x.run.deferred

/-- The state after the search has looked at one slot: WAIT_AREA as judged (R53, R145). -/
def judgeSlot (n : Fin 8) (s : State) : State :=
  if (s.slotAt n).gateJudged then markWaitArea n (!gateMet (s.slotAt n) s) s else s

/-- Is a slot eligible (R53)? -/
def slotEligible (n : Fin 8) (s : State) : Bool :=
  let x := s.slotAt n
  match x.state with
  | .queued => queuedEligible n x s
  | .opening => !x.run.deferred
  | .closing => !x.run.deferred
  | .transferring => !x.run.deferred && gateMet x s
  | .free | .abortPending | .aborted | .done | .failed => false

/-- The round-robin search: it stops at the first eligible slot (R53). -/
def searchSlots : List (Fin 8) → State → State × Option (Fin 8)
  | [], s => (s, none)
  | n :: ns, s =>
    if slotEligible n s then (judgeSlot n s, some n) else searchSlots ns (judgeSlot n s)

/-- The cost of an eligible slot's transaction (R21, R54). -/
def slotCost (n : Fin 8) (s : State) : Nat :=
  let x := s.slotAt n
  match slotRequestOf x s with
  | .openExchange => requestCost s.window0 .openExchange (5 + x.host.blockLength.toNat) 0
  | .put e _ => requestCost s.window0 .put e 0
  | .fetch e _ => requestCost s.window0 .fetch 1 e
  | .close => requestCost s.window0 .close 0 0

/-- A slot that leaves QUEUED does so before its OPEN is started (R54, R119). -/
def leaveQueue (n : Fin 8) (s : State) : State :=
  if (s.slotAt n).state = .queued then pickFromQueued n s else s

/-- The transaction of a picked slot: the pointer moves to it, its request in flight is recorded (R53, R141, R142). -/
def startSlot (n : Fin 8) (s : State) : State :=
  let s1 := leaveQueue n s
  let x := s1.slotAt n
  let q := slotRequestOf x s1
  let s2 : State := { s1 with sched := { s1.sched with rrPtr := n } }
  startTxn (slotTxn n x q s1) (s2.updSlot n (fun y => { y with inFlight := some q }))

/-- The acyclic pick: the first candidate is started if it fits, or the stage ends (R51). -/
def acyclicPick (s : State) : State :=
  match cancelCandidate s with
  | some (k, tag) =>
    if requestCost s.window0 .cancel 2 0 ≤ s.budget then startTxn (cancelRequest k tag) s else probeStage s
  | none =>
    match searchSlots (slotOrder s.sched.rrPtr) s with
    | (s1, some n) => if slotCost n s1 ≤ s1.budget then startSlot n s1 else probeStage s1
    | (s1, none) => probeStage s1

/-- Stage ACYCLIC on entry: the first pick (R51). -/
def enterAcyclic (s : State) : State := acyclicPick { s with sched := { s.sched with stage := .acyclic } }

/-! ### The walk -/

/-- Scan list entry at a position (R44). -/
def State.scanEntry (s : State) (p : Nat) : Byte := s.sched.scanEntries.toList.getD p 0#8

/-- The module in service that the entry at a position names, if it names one (R45). -/
def entryInService (s : State) (p : Nat) : Option (Fin 30) :=
  (moduleIndex (s.scanEntry p).toNat).filter (fun k => (s.moduleAt k).state.inService)

/-- The next entry whose module is in service, from the scan position on (R45). -/
def nextEntry (s : State) : Option (Nat × Fin 30) :=
  (List.range' s.sched.scanPos s.entriesLeft).findSome? (fun p => (entryInService s p).map (fun k => (p, k)))

/-- The walk: the next SCAN, or past the last entry the cycle end COMPLETE and stage ACYCLIC (R45, R47). -/
def walk (s : State) : State :=
  match nextEntry s with
  | some (p, k) => startTxn (scanRequest k s) { s with sched := { s.sched with scanPos := p } }
  | none =>
    enterAcyclic (cycleEnd .complete 0 { s with sched := { s.sched with scanPos := s.sched.scanLength.toNat } })

/-! ### Routing of outcomes (section 3.8) -/

/-- A SCAN that ended counts as scanned and the scan position moves past its entry (R45, R48). -/
def countScan (s : State) : State :=
  { s with sched := { s.sched with scanned := s.sched.scanned + 1, scanPos := s.sched.scanPos + 1 } }

/-- An outcome of a slot's transaction: module table, then exchange unit (R58, R60). -/
def routeSlot (k : Fin 30) (o : TxnOutcome) (s : State) : State :=
  match s.sched.forSlot with
  | some n => takeSlotOutcome n o (countOutcome k o s)
  | none => countOutcome k o s

/-- An outcome to its owners, by the request and the module it was sent to (R58). -/
def routeTo (kind : RequestKind) (k : Fin 30) (o : TxnOutcome) (s : State) : State :=
  match kind with
  | .mark => s
  | .scan => countScan (takeScan k o s)
  | .probe => takeProbe k o s
  | .cancel => takeCancel k o s
  | .openExchange => routeSlot k o s
  | .put => routeSlot k o s
  | .fetch => routeSlot k o s
  | .close => routeSlot k o s

/-- The routing of an outcome; the transaction is no longer the scheduler's (R58). -/
def routeOutcome (t : Txn) (o : TxnOutcome) (s : State) : State :=
  let s1 := match moduleIndex t.address with
    | some k => routeTo t.kind k o s
    | none => s
  { s1 with sched := { s1.sched with forSlot := none } }

/-- The MARK of a cycle has ended: stage SCAN (R43). -/
def enterScan (s : State) : State := { s with sched := { s.sched with stage := .scan } }

/-- The scheduler's next decision after an outcome in RUNNING, by the stage and by whether the timer has expired
(R43, R45, R46, R49, R51, R57). -/
def nextDecision (s : State) : State :=
  let expired : Bool := s.sched.timer == .expired
  match s.sched.stage with
  | .mark =>
    if expired then overrunCut true (enterScan s) else walk (enterScan s)
  | .scan => if expired then overrunCut true s else walk s
  | .acyclic => if expired then cycleStart true s else acyclicPick s
  | .probe => if expired then cycleStart true s else enterRest s
  | .rest => if expired then cycleStart true s else s
  | .none => s

/-- What is left to the end of a transaction in RUNNING: the next decision, or, where other events of the same moment
come first, the end of the MARK stage alone, with the decision due. A timer that expired during the transaction leaves
no such choice: the next cycle starts at once (R43, R46, R49, R164, log entry 20). -/
def decideInOrder (order : EndOrder) (s : State) : State :=
  match order with
  | .decisionFirst => nextDecision s
  | .othersFirst =>
    if s.sched.timer = .expired then nextDecision s
    else if s.sched.stage = .mark then enterScan s
    else s

/-- The stages in which the scheduler has a decision to take when no transaction is in flight (R45, R51, R57). -/
def CycleStage.decides : CycleStage → Bool
  | .scan | .acyclic | .probe => true
  | .none | .mark | .rest => false

/-- Is a decision of the scheduler due (R50)? -/
def State.decisionDue (s : State) : Bool :=
  s.link.state == .running && s.line.txn.isNone && s.sched.stage.decides

end Sys2Proof.Machine
end

