-- ==== Sys2Proof/Machine/LinkOps.lean ====
section
/-! DEFINITION. The shared operations of the link controller and the end of a transaction: the link-down step, the STOP_DONE entry, the echo limit, and what follows an outcome (chapters 1, 2 and 3). -/

namespace Sys2Proof.Machine

/-- The scheduler's effect of the link-down step (R62). -/
def Scheduler.linkDown (c : Scheduler) : Scheduler :=
  { c with timer := .stopped, stage := .none, lateStart := false, cancelDeferred := [] }

/-- The link-down step with its slot condition (R36): module table, exchange unit, image unit, scheduler. -/
def linkDownStep (c : Condition) (s : State) : State :=
  let s1 := failSlotsDown c allSlots (mapModulesDown s)
  { s1 with image := s1.image.linkDown, sched := s1.sched.linkDown }

/-- The transceiver released, with LTX at the idle level (R4). -/
def releasePair (s : State) : State := { s with line := { s.line with lde := false, ltx := .idle } }

/-- The pair driven at the idle level (R4). -/
def drivePair (s : State) : State := { s with line := { s.line with lde := true, ltx := .idle } }

/-- Entry into FAULT with its link-down step (R28, R35). -/
def enterFault (c : LinkCause) (s : State) : State :=
  linkDownStep .linkFault (changeLink .fault c (releasePair s))

/-- Entry into OFF by SHUTDOWN: LDE, state, echo fault count, link-down step (R33, R34). -/
def enterOff (s : State) : State :=
  let s1 := changeLink .off .command (releasePair s)
  linkDownStep .linkDown { s1 with line := { s1.line with echoFaults := 0 } }

/-- The STOPPED cycle end, when the scan stage had not finished (R61). -/
def stoppedCycleEnd (s : State) : State :=
  match s.sched.stage with
  | .mark => cycleEnd .stopped s.entriesLeft s
  | .scan => cycleEnd .stopped s.entriesLeft s
  | .none => s
  | .acyclic => s
  | .probe => s
  | .rest => s

/-- The STOP_DONE entry into IDLE (R32, R61, R168): link change, cycle end, timer and stage, slots aborted. -/
def stopDone (s : State) : State :=
  let s1 := stoppedCycleEnd (changeLink .idle .stopDone (drivePair s))
  abortSlots allSlots { s1 with sched := { s1.sched with timer := .stopped, stage := .none } }

/-- The echo fault count after an outcome (R19). -/
def echoFaultsAfter (o : TxnOutcome) (count : Nat) : Nat :=
  if o = .echoFault then min Config.echoLimit (count + 1) else count

/-- The line engine's part of a transaction's end: record removed, count, pair driven again (R17, R19). -/
def removeTxn (o : TxnOutcome) (s : State) : State :=
  { s with line := { s.line with
      txn := none, echoFaults := echoFaultsAfter o s.line.echoFaults, lde := true, ltx := .idle } }

/-- Does the end of this transaction bring the echo limit report (R20)? -/
def echoLimitMet (o : TxnOutcome) (s : State) : Bool := o == .echoFault && decide (Config.echoLimit ≤ s.line.echoFaults)

/-- What follows the routing of an outcome: the echo limit report, or by the link state the scheduler's next decision,
taken in the order given, or the STOP_DONE entry (R20, R32, R50). -/
def afterOutcome (o : TxnOutcome) (order : EndOrder) (s : State) : State :=
  if echoLimitMet o s then enterFault .echoLimit s
  else
    match s.link.state with
    | .running => decideInOrder order s
    | .stopping => stopDone s
    | .off => s
    | .checking => s
    | .idle => s
    | .fault => s

/-- The end of a transaction (R17): hand-over, routing, then what follows. -/
def endTxn (t : Txn) (o : TxnOutcome) (order : EndOrder) (s : State) : State :=
  afterOutcome o order (routeOutcome t o (removeTxn o s))

/-- A transaction cut by SHUTDOWN (R18, R34): its ABANDONED outcome is routed and nothing follows. -/
def cutTxn (s : State) : State :=
  match s.line.txn with
  | some t => routeOutcome t .abandoned { s with line := { s.line with txn := none, lde := false, ltx := .idle } }
  | none => s

end Sys2Proof.Machine
end

