-- ==== Sys2Proof/Machine/Operands.lean ====
section
/-! DEFINITION. The operand forms of a host access: the register maps of section 11.6, the value each register reads as, which row of the table a write of each register belongs to, and the shared course of a DATA access (chapter 11). -/

namespace Sys2Proof.Machine

/-! ### Registers -/

/-- The 16-bit fields (R182, Tables 11-4 to 11-6). -/
inductive Field16 where
  | partCode
  | cycleLength | cycleCounter | recordNumber
  | expectedType | inOffset | outOffset | repType | holderTag
  | heldCycle
  | tag | declared | bytesMoved | residue | detail
  | areaSize | areaStart | areaFill | areaOldest | areaFree
  | headCycle
deriving DecidableEq, Repr

/-- The registers of one byte that stand alone in the maps (Tables 11-4 to 11-6). -/
inductive ByteReg where
  | revision | resetCause | pendingSet | clearing | intEnable | attnEnable
  | errorCause | errorUnit | errorIndex | errorMore
  | linkState | bitRate | replyWindow | threshold | lastOld | lastNew | lastCause | echoFaults
  | stage | searchVacant | rrPtr | probePtr | recordScanned | recordCut | recordStatus | recordLate | scanLength
  | moduleState | mismatch | inLength | outLength | watchMask | wasConfigured | repIn | repOut | repMax | failCount
  | holderKind | holderSlot | cancelHold | statusByte | age | waitingLength
  | imageSelect | page | follow | freeze | snapshotPending | commitPending | outputsValid | supervision | deadline
  | retryLimit | holdLimit | moduleAddr | kind | area | pieceLimit | blockLength
  | slotState | recordedPhase | errCount | lastError | holdCount | putSeq | fetchSeq | flags | condition
  | refuseReason | resultCode | inFlight
  | bindingKind | bindingSlot
  | queueCount | lostCount | overflow | headKind | headSubject
deriving DecidableEq, Repr

/-- A register of the window. -/
inductive Reg where
  | command (u : UnitId)
  | result (u : UnitId)
  | subject (u : UnitId)
  | lo (f : Field16)
  | hi (f : Field16)
  | byte (r : ByteReg)
  | scanEntry (j : Fin 32)
  | waitingEntry (j : Fin 8)
  | heldAge (k : Fin 30)
  | imageByte (j : Fin 64)
  | blockByte (j : Fin 16)
  | staged (a : Fin 4)
  | dataPort
  | headField (j : Fin 8)
deriving DecidableEq, Repr

/-- The unit a UNIT value selects (Table 11-2). -/
def unitOf (u : Byte) : Option UnitId :=
  match u.toNat with
  | 0 => some .global
  | 1 => some .link
  | 2 => some .cycle
  | 3 => some .modules
  | 4 => some .image
  | 5 => some .slots
  | 6 => some .areas
  | 7 => some .notices
  | _ => none

/-- A unit's number (Table 11-2). -/
def UnitId.number : UnitId → Fin 8
  | .global => 0
  | .link => 1
  | .cycle => 2
  | .modules => 3
  | .image => 4
  | .slots => 5
  | .areas => 6
  | .notices => 7

/-- The units with subjects (Table 11-2). -/
def UnitId.hasSubject : UnitId → Bool
  | .modules | .slots | .areas => true
  | .global | .link | .cycle | .image | .notices => false

/-- Both bytes of a 16-bit field, low byte at the lower index (R182). -/
def wide (i : Nat) (f : Field16) : List (Nat × Reg) := [(i, .lo f), (i + 1, .hi f)]

/-- The registers that stand alone in each unit's map (Tables 11-4 to 11-6). -/
def unitMap : UnitId → List (Nat × Reg)
  | .global =>
    wide 0x04 .partCode ++
      [(0x06, .byte .revision), (0x07, .byte .resetCause), (0x08, .byte .pendingSet), (0x09, .byte .clearing),
        (0x0A, .byte .intEnable), (0x0B, .byte .attnEnable), (0x0C, .byte .errorCause), (0x0D, .byte .errorUnit),
        (0x0E, .byte .errorIndex), (0x0F, .byte .errorMore)]
  | .link =>
    [(0x04, .byte .linkState), (0x05, .byte .bitRate), (0x06, .byte .replyWindow), (0x07, .byte .threshold),
      (0x08, .byte .lastOld), (0x09, .byte .lastNew), (0x0A, .byte .lastCause), (0x0B, .byte .echoFaults)]
  | .cycle =>
    wide 0x04 .cycleLength ++ wide 0x06 .cycleCounter ++
      [(0x08, .byte .stage), (0x09, .byte .searchVacant), (0x0A, .byte .rrPtr), (0x0B, .byte .probePtr)] ++
      wide 0x0C .recordNumber ++
      [(0x0E, .byte .recordScanned), (0x0F, .byte .recordCut), (0x10, .byte .recordStatus), (0x11, .byte .recordLate),
        (0x20, .byte .scanLength)]
  | .modules =>
    [(0x04, .byte .moduleState), (0x05, .byte .mismatch)] ++ wide 0x06 .expectedType ++ wide 0x08 .inOffset ++
      [(0x0A, .byte .inLength)] ++ wide 0x0B .outOffset ++
      [(0x0D, .byte .outLength), (0x0E, .byte .watchMask), (0x0F, .byte .wasConfigured)] ++ wide 0x10 .repType ++
      [(0x12, .byte .repIn), (0x13, .byte .repOut), (0x14, .byte .repMax), (0x15, .byte .failCount),
        (0x16, .byte .holderKind), (0x17, .byte .holderSlot)] ++ wide 0x18 .holderTag ++
      [(0x1A, .byte .cancelHold), (0x1B, .byte .statusByte), (0x1C, .byte .age), (0x1D, .byte .waitingLength)]
  | .image =>
    [(0x04, .byte .imageSelect), (0x05, .byte .page), (0x06, .byte .follow), (0x07, .byte .freeze),
      (0x08, .byte .snapshotPending), (0x09, .byte .commitPending), (0x0A, .byte .outputsValid),
      (0x0B, .byte .supervision), (0x0C, .byte .deadline)] ++ wide 0x0E .heldCycle
  | .slots =>
    [(0x04, .byte .retryLimit), (0x05, .byte .holdLimit), (0x08, .byte .moduleAddr), (0x09, .byte .kind)] ++
      wide 0x0A .tag ++ wide 0x0C .declared ++
      [(0x0E, .byte .area), (0x0F, .byte .pieceLimit), (0x10, .byte .blockLength),
        (0x30, .byte .slotState), (0x31, .byte .recordedPhase)] ++ wide 0x32 .bytesMoved ++
      [(0x34, .byte .errCount), (0x35, .byte .lastError), (0x36, .byte .holdCount), (0x37, .byte .putSeq),
        (0x38, .byte .fetchSeq), (0x39, .byte .flags), (0x3A, .byte .condition), (0x3B, .byte .refuseReason),
        (0x3C, .byte .resultCode)] ++ wide 0x3D .residue ++ wide 0x3F .detail ++ [(0x41, .byte .inFlight)]
  | .areas =>
    [(0x04, .staged 0), (0x05, .staged 1), (0x06, .staged 2), (0x07, .staged 3), (0x08, .dataPort)] ++
      wide 0x0A .areaSize ++ wide 0x0C .areaStart ++ wide 0x0E .areaFill ++ wide 0x10 .areaOldest ++
      wide 0x12 .areaFree ++ [(0x14, .byte .bindingKind), (0x15, .byte .bindingSlot)]
  | .notices =>
    [(0x04, .byte .queueCount), (0x05, .byte .lostCount), (0x06, .byte .overflow), (0x08, .byte .headKind),
      (0x09, .byte .headSubject)] ++ wide 0x0A .headCycle

/-- The registers that form a range in a unit's map (Tables 11-4 to 11-6). -/
def rangeReg (u : UnitId) (i : Nat) : Option Reg :=
  match u with
  | .cycle => if h : 0x40 ≤ i ∧ i ≤ 0x5F then some (.scanEntry ⟨i - 0x40, by omega⟩) else none
  | .modules => if h : 0x20 ≤ i ∧ i ≤ 0x27 then some (.waitingEntry ⟨i - 0x20, by omega⟩) else none
  | .image =>
    if h : 0x20 ≤ i ∧ i ≤ 0x3D then some (.heldAge ⟨i - 0x20, by omega⟩)
    else if h : 0x40 ≤ i ∧ i ≤ 0x7F then some (.imageByte ⟨i - 0x40, by omega⟩)
    else none
  | .slots => if h : 0x20 ≤ i ∧ i ≤ 0x2F then some (.blockByte ⟨i - 0x20, by omega⟩) else none
  | .notices => if h : 0x0C ≤ i ∧ i ≤ 0x13 then some (.headField ⟨i - 0x0C, by omega⟩) else none
  | .global => none
  | .link => none
  | .areas => none

/-- The register of a unit at an index, if there is one (R181, R188). -/
def regAt (u : UnitId) (i : Nat) : Option Reg :=
  if i = 0 then some (.command u)
  else if i = 1 then some (.result u)
  else if i = 2 then (if u.hasSubject then some (.subject u) else none)
  else ((unitMap u).lookup i).or (rangeReg u i)

/-- What a DATA access reaches: no unit, no register, or a register (R180, R181). -/
inductive Selection where
  | noUnit
  | noIndex
  | reg (r : Reg)
deriving DecidableEq, Repr

/-- What UNIT and INDEX select (R180, R181). -/
def RegisterWindow.selection (w : RegisterWindow) : Selection :=
  match unitOf w.unit with
  | none => .noUnit
  | some u =>
    match regAt u w.index.toNat with
    | none => .noIndex
    | some r => .reg r

/-- What UNIT and INDEX select in a state. -/
def State.selection (s : State) : Selection := s.window.selection

/-! ### Value codes (Table 11-7) -/

/-- Flags and settings read 00h or 01h (R188). -/
def flagByte (b : Bool) : Byte := if b then 0x01#8 else 0x00#8

/-- A count as a byte. -/
def countByte (n : Nat) : Byte := BitVec.ofNat 8 n

def LinkState.code : LinkState → Byte
  | .off => 0#8 | .checking => 1#8 | .idle => 2#8 | .running => 3#8 | .stopping => 4#8 | .fault => 5#8

def LinkCause.code : LinkCause → Byte
  | .none => 0#8 | .command => 1#8 | .checkPassed => 2#8 | .lineHeld => 3#8 | .echoLimit => 4#8 | .stopDone => 5#8

def CycleStage.code : CycleStage → Byte
  | .none => 0#8 | .mark => 1#8 | .scan => 2#8 | .acyclic => 3#8 | .probe => 4#8 | .rest => 5#8

def CycleStatus.code : CycleStatus → Byte
  | .none => 0#8 | .complete => 1#8 | .overrun => 2#8 | .stopped => 3#8

def ModuleState.code : ModuleState → Byte
  | .vacant => 0#8 | .expected => 1#8 | .present => 2#8 | .suspect => 3#8 | .lost => 4#8 | .found => 5#8
  | .mismatch => 6#8 | .disabled => 7#8

def MismatchCause.code : MismatchCause → Byte
  | .none => 0#8 | .format => 1#8 | .type => 2#8 | .length => 3#8

def ModuleCause.code : ModuleCause → Byte
  | .identified => 1#8 | .returned => 2#8 | .answered => 3#8 | .mismatchFormat => 4#8 | .mismatchType => 5#8
  | .mismatchLength => 6#8 | .failures => 7#8 | .cancelFailed => 8#8

def Holder.code : Holder → Byte
  | .none => 0#8 | .slot _ => 1#8 | .cancelPending _ => 2#8

def SlotState.code : SlotState → Byte
  | .free => 0#8 | .queued => 1#8 | .opening => 2#8 | .transferring => 3#8 | .closing => 4#8 | .abortPending => 5#8
  | .aborted => 6#8 | .done => 7#8 | .failed => 8#8

def Phase.code : Phase → Byte
  | .none => 0#8 | .opening => 1#8 | .transferring => 2#8 | .closing => 3#8

def ErrorKind.code : ErrorKind → Byte
  | .none => 0#8 | .timeout => 1#8 | .corrupt => 2#8 | .stray => 3#8 | .seqSlip => 4#8

def SlotRequest.code : SlotRequest → Byte
  | .openExchange => 1#8 | .put _ _ => 2#8 | .fetch _ _ => 3#8 | .close => 4#8

def Condition.code : Condition → Byte
  | .none => 0#8 | .ok => 1#8 | .refused => 2#8 | .retries => 3#8 | .holdExpired => 4#8 | .longData => 5#8
  | .resultBad => 6#8 | .resultError => 7#8 | .moduleLost => 8#8 | .moduleMismatch => 9#8 | .linkDown => 10#8
  | .linkFault => 11#8

def WindowCause.code : WindowCause → Byte
  | .none => 0#8 | .noUnit => 1#8 | .noIndex => 2#8 | .readOnly => 3#8 | .wrongState => 4#8 | .areaFull => 5#8
  | .areaEmpty => 6#8

def ResultCode.code : ResultCode → Byte
  | .none => 0#8 | .accepted => 1#8 | .wrongState => 2#8 | .badArgument => 3#8 | .inUse => 4#8 | .absent => 5#8
  | .areaBusy => 6#8 | .noRoom => 7#8 | .unknownCommand => 8#8

def ResetCause.code : ResetCause → Byte
  | .power => 1#8 | .platform => 2#8

def NoticeBody.kindCode : NoticeBody → Byte
  | .slotEnded .. => 1#8 | .moduleState .. => 2#8 | .moduleStatus .. => 3#8 | .cycleOverrun _ => 4#8
  | .outputExpired _ => 5#8 | .linkState .. => 6#8

/-- The subject of a notice: a slot number, a module address, or 0 (R171). -/
def NoticeBody.subject : NoticeBody → Byte
  | .slotEnded n _ _ _ => countByte n.val
  | .moduleState k _ _ _ => countByte (moduleAddress k)
  | .moduleStatus k _ _ => countByte (moduleAddress k)
  | .cycleOverrun _ => 0#8
  | .outputExpired _ => 0#8
  | .linkState _ _ _ => 0#8

/-- The further fields of a notice from index 0Ch on (Table 11-8). -/
def NoticeBody.further : NoticeBody → List Byte
  | .slotEnded _ st c ab => [st.code, c.code, flagByte ab]
  | .moduleState _ old new c => [old.code, new.code, c.code]
  | .moduleStatus _ old new => [old, new]
  | .cycleOverrun cut => [countByte cut]
  | .outputExpired d => [d]
  | .linkState old new c => [old.code, new.code, c.code]

/-- The kind a binding reads as: 0 NONE, 1 WRITE, 2 READ (Table 11-7). -/
def bindingCode : Option Binding → Byte
  | none => 0#8
  | some b => match b.direction with
    | .write => 1#8
    | .read => 2#8

/-! ### Values of registers -/

/-- The selected module record, slot and area (R66, R109, R132). -/
def State.selModule (s : State) : ModuleRecord := s.moduleAt s.table.subject

def State.selSlot (s : State) : Slot := s.slotAt s.exch.subject

def State.selArea (s : State) : AreaRecord := s.areaAt s.areas.subject

/-- The image the image select names (R106). -/
def ImageUnit.selected (i : ImageUnit) : Memory :=
  if i.select = 0 then i.live else if i.select = 1 then i.held else if i.select = 2 then i.staging else i.active

/-- The image address of a byte index of the range: 64 × page + position (R106). -/
def ImageUnit.address (i : ImageUnit) (j : Fin 64) : Nat := 64 * i.page.val + j.val

/-- A 16-bit field as it stands (R182). -/
def fieldValue (s : State) : Field16 → Half
  | .partCode => Config.partCode
  | .cycleLength => s.sched.cycleLength
  | .cycleCounter => s.sched.cycleCounter
  | .recordNumber => s.sched.record.number
  | .expectedType => s.selModule.expectedType
  | .inOffset => s.selModule.inOffset
  | .outOffset => s.selModule.outOffset
  | .repType => s.selModule.repType
  | .holderTag => match s.selModule.holder with
    | .cancelPending t => t
    | .none => 0#16
    | .slot _ => 0#16
  | .heldCycle => s.image.heldCycle
  | .tag => s.selSlot.host.tag
  | .declared => s.selSlot.host.declared
  | .bytesMoved => BitVec.ofNat 16 s.selSlot.run.bytesMoved
  | .residue => s.selSlot.run.residue
  | .detail => s.selSlot.run.detail
  | .areaSize => BitVec.ofNat 16 s.selArea.size
  | .areaStart => BitVec.ofNat 16 s.selArea.start
  | .areaFill => BitVec.ofNat 16 s.selArea.fill
  | .areaOldest => BitVec.ofNat 16 s.selArea.oldest
  | .areaFree => BitVec.ofNat 16 s.selArea.room
  | .headCycle => match s.notices.queue with
    | [] => 0#16
    | r :: _ => r.cycle

/-- The flags of a slot: bit 0 WAIT_AREA, 1 deferred, 2 SHORT, 3 abort-requested (Table 11-5). -/
def SlotRun.flags (r : SlotRun) : Byte :=
  (if r.waitArea then 0x01#8 else 0#8) ||| (if r.deferred then 0x02#8 else 0#8) |||
    (if r.short then 0x04#8 else 0#8) ||| (if r.abortRequested then 0x08#8 else 0#8)

/-- A one-byte register as it stands. -/
def byteValue (s : State) : ByteReg → Byte
  | .revision => Config.revision
  | .resetCause => s.window.resetCause.code
  | .pendingSet => s.notices.events
  | .clearing => 0#8
  | .intEnable => s.notices.intEnable
  | .attnEnable => s.notices.attnEnable
  | .errorCause => s.window.error.cause.code
  | .errorUnit => s.window.error.unit
  | .errorIndex => s.window.error.index
  | .errorMore => flagByte s.window.error.more
  | .linkState => s.link.state.code
  | .bitRate => s.link.bitRate
  | .replyWindow => s.link.replyWindow
  | .threshold => s.link.threshold
  | .lastOld => s.link.lastOld.code
  | .lastNew => s.link.lastNew.code
  | .lastCause => s.link.lastCause.code
  | .echoFaults => countByte s.line.echoFaults
  | .stage => s.sched.stage.code
  | .searchVacant => flagByte s.sched.searchVacant
  | .rrPtr => countByte s.sched.rrPtr.val
  | .probePtr => countByte (moduleAddress s.sched.probePtr)
  | .recordScanned => countByte s.sched.record.scanned
  | .recordCut => countByte s.sched.record.cut
  | .recordStatus => s.sched.record.status.code
  | .recordLate => flagByte s.sched.record.late
  | .scanLength => s.sched.scanLength
  | .moduleState => s.selModule.state.code
  | .mismatch => s.selModule.mismatch.code
  | .inLength => s.selModule.inLength
  | .outLength => s.selModule.outLength
  | .watchMask => s.selModule.watchMask
  | .wasConfigured => flagByte s.selModule.wasConfigured
  | .repIn => s.selModule.repIn
  | .repOut => s.selModule.repOut
  | .repMax => s.selModule.repMax
  | .failCount => countByte s.selModule.failCount
  | .holderKind => s.selModule.holder.code
  | .holderSlot => match s.selModule.holder with
    | .slot n => countByte n.val
    | .none => 0#8
    | .cancelPending _ => 0#8
  | .cancelHold => countByte s.selModule.cancelHold
  | .statusByte => s.selModule.status
  | .age => countByte s.selModule.age
  | .waitingLength => countByte s.selModule.waiting.length
  | .imageSelect => countByte s.image.select.val
  | .page => countByte s.image.page.val
  | .follow => flagByte s.image.follow
  | .freeze => flagByte s.image.freeze
  | .snapshotPending => flagByte s.image.snapshotPending
  | .commitPending => flagByte s.image.commitPending
  | .outputsValid => flagByte s.image.outputsValid
  | .supervision => countByte s.image.supervision
  | .deadline => s.image.deadline
  | .retryLimit => s.exch.retryLimit
  | .holdLimit => s.exch.holdLimit
  | .moduleAddr => s.selSlot.host.moduleAddr
  | .kind => s.selSlot.host.kind
  | .area => countByte s.selSlot.host.area.val
  | .pieceLimit => s.selSlot.host.pieceLimit
  | .blockLength => s.selSlot.host.blockLength
  | .slotState => s.selSlot.state.code
  | .recordedPhase => s.selSlot.run.recordedPhase.code
  | .errCount => countByte s.selSlot.run.errCount
  | .lastError => s.selSlot.run.lastError.code
  | .holdCount => countByte s.selSlot.run.holdCount
  | .putSeq => flagByte s.selSlot.run.putSeq
  | .fetchSeq => flagByte s.selSlot.run.fetchSeq
  | .flags => s.selSlot.run.flags
  | .condition => s.selSlot.run.condition.code
  | .refuseReason => s.selSlot.run.refuseReason
  | .resultCode => s.selSlot.run.resultCode
  | .inFlight => match s.selSlot.inFlight with
    | none => 0#8
    | some q => q.code
  | .bindingKind => bindingCode s.selArea.binding
  | .bindingSlot => match s.selArea.binding with
    | none => 0#8
    | some b => countByte b.slot.val
  | .queueCount => countByte s.notices.queue.length
  | .lostCount => countByte s.notices.lostCount
  | .overflow => flagByte s.notices.overflow
  | .headKind => match s.notices.queue with
    | [] => 0#8
    | r :: _ => r.body.kindCode
  | .headSubject => match s.notices.queue with
    | [] => 0#8
    | r :: _ => r.body.subject

/-- The value SUBJECT of a unit reads as (R66, R109, R132). -/
def subjectValue (s : State) : UnitId → Byte
  | .modules => countByte (moduleAddress s.table.subject)
  | .slots => countByte s.exch.subject.val
  | .areas => countByte s.areas.subject.val
  | .global | .link | .cycle | .image | .notices => 0#8

/-- The value of a register as it stands, without the read latch and without the data port's removal. -/
def regValue (s : State) : Reg → Byte
  | .command u => s.window.commands[u.number]
  | .result u => (s.window.results[u.number]).code
  | .subject u => subjectValue s u
  | .lo f => loByte (fieldValue s f)
  | .hi f => hiByte (fieldValue s f)
  | .byte r => byteValue s r
  | .scanEntry j => s.sched.scanEntries[j]
  | .waitingEntry j => match s.selModule.waiting[j.val]? with
    | some n => countByte n.val
    | none => 0#8
  | .heldAge k => countByte (s.image.heldAges[k])
  | .imageByte j => s.image.selected.read (s.image.address j)
  | .blockByte j => s.selSlot.host.block[j]
  | .staged a => s.areas.staged[a]
  | .dataPort => (s.selArea.peek s.areas.memory 1).headD 0#8
  | .headField j => match s.notices.queue with
    | [] => 0#8
    | r :: _ => r.body.further.getD j.val 0#8

/-! ### Which row a DATA write belongs to -/

/-- The kinds of DATA writes that spec/opcode_table.json lists as rows of their own; `plain` and `readOnly` make up
REGISTER_WRITE. -/
inductive WriteClass where
  | command | plain | readOnly | linkConfig | cycleLength | scanList | searchVacant | moduleField | staging | follow
  | deadline | slotField | exchangeLimit | stagedSize | dataPort | clearing | intEnable | attnEnable
deriving DecidableEq, Repr

/-- The class of a 16-bit field (Tables 11-4 to 11-6: RO or not). -/
def Field16.writeClass : Field16 → WriteClass
  | .cycleLength => .cycleLength
  | .expectedType | .inOffset | .outOffset => .moduleField
  | .tag | .declared => .slotField
  | .partCode | .cycleCounter | .recordNumber | .repType | .holderTag | .heldCycle | .bytesMoved | .residue | .detail
  | .areaSize | .areaStart | .areaFill | .areaOldest | .areaFree | .headCycle => .readOnly

/-- The class of a one-byte register (Tables 11-4 to 11-6: RO or not). -/
def ByteReg.writeClass : ByteReg → WriteClass
  | .clearing => .clearing
  | .intEnable => .intEnable
  | .attnEnable => .attnEnable
  | .bitRate | .replyWindow | .threshold => .linkConfig
  | .searchVacant => .searchVacant
  | .scanLength => .scanList
  | .inLength | .outLength | .watchMask => .moduleField
  | .imageSelect | .page => .plain
  | .follow => .follow
  | .deadline => .deadline
  | .retryLimit | .holdLimit => .exchangeLimit
  | .moduleAddr | .kind | .area | .pieceLimit | .blockLength => .slotField
  | .revision | .resetCause | .pendingSet | .errorCause | .errorUnit | .errorIndex | .errorMore
  | .linkState | .lastOld | .lastNew | .lastCause | .echoFaults
  | .stage | .rrPtr | .probePtr | .recordScanned | .recordCut | .recordStatus | .recordLate
  | .moduleState | .mismatch | .wasConfigured | .repIn | .repOut | .repMax | .failCount
  | .holderKind | .holderSlot | .cancelHold | .statusByte | .age | .waitingLength
  | .freeze | .snapshotPending | .commitPending | .outputsValid | .supervision
  | .slotState | .recordedPhase | .errCount | .lastError | .holdCount | .putSeq | .fetchSeq | .flags | .condition
  | .refuseReason | .resultCode | .inFlight | .bindingKind | .bindingSlot
  | .queueCount | .lostCount | .overflow | .headKind | .headSubject => .readOnly

/-- The class of a register; an image byte is written only with image select 2 (R106). -/
def Reg.writeClass (select : Fin 4) : Reg → WriteClass
  | .command _ => .command
  | .result _ => .readOnly
  | .subject _ => .plain
  | .lo f => f.writeClass
  | .hi f => f.writeClass
  | .byte r => r.writeClass
  | .scanEntry _ => .scanList
  | .waitingEntry _ => .readOnly
  | .heldAge _ => .readOnly
  | .imageByte _ => if select = 2 then .staging else .readOnly
  | .blockByte _ => .slotField
  | .staged _ => .stagedSize
  | .dataPort => .dataPort
  | .headField _ => .readOnly

/-! ### The course of a DATA access -/

/-- INDEX stays after an access at COMMAND, at RESULT or at the data port of AREAS (R181). -/
def RegisterWindow.indexStays (w : RegisterWindow) : Bool :=
  match unitOf w.unit with
  | none => false
  | some u => w.index == 0#8 || w.index == 1#8 || (u == .areas && w.index == 0x08#8)

/-- INDEX after a DATA access, wrapping from FFh to 00h (R181). -/
def RegisterWindow.nextIndex (w : RegisterWindow) : Byte := if w.indexStays then w.index else w.index + 1#8

/-- INDEX advances after a DATA access, whatever its result (R181). -/
def State.advanceIndex (s : State) : State := { s with window := { s.window with index := s.window.nextIndex } }

/-- The read latch is emptied (R182). -/
def State.emptyLatch (s : State) : State := { s with window := { s.window with latch := none } }

/-- The close of a DATA access that is neither a low-byte read nor a high-byte read: INDEX advances and the latch is
emptied (R181, R182). -/
def State.finishAccess (s : State) : State := s.advanceIndex.emptyLatch

/-- A byte returned to the host on D0 to D7. -/
def State.returns (v : Byte) (s : State) : State := { s with window := { s.window with dataOut := v } }

/-- A read of any port while PRST# is asserted returns 00h (R186). -/
def State.readInReset (s : State) : State := s.returns 0#8

/-- A write of one byte of a 16-bit field: the written byte and the field's other byte as it stands (R182). -/
def putLow (old : Half) (v : Byte) : Half := halfOf (hiByte old) v

def putHigh (old : Half) (v : Byte) : Half := halfOf v (loByte old)

/-- The class of the DATA write that UNIT and INDEX select, if they select a register. -/
def State.writeClass (s : State) : Option WriteClass :=
  match s.selection with
  | .reg r => some (r.writeClass s.image.select)
  | .noUnit => none
  | .noIndex => none

/-- The course of a DATA write of a row: it is the row's event when UNIT and INDEX select a register of the row's
class and PRST# is not asserted; then the effect at the register, and the close of the access (R181). Otherwise it is
no event (log entry 3). -/
def onWrite (c : WriteClass) (effect : Reg → State → State) (s : State) : State :=
  match s.selection with
  | .reg r =>
    if !s.window.prst && r.writeClass s.image.select == c then (effect r s).finishAccess else s
  | .noUnit => s
  | .noIndex => s

/-! ### Commands (R183) -/

/-- The unit holds the code as its last command code and writes its result code (R183). -/
def storeCommand (u : UnitId) (code : Byte) (r : ResultCode) (s : State) : State :=
  { s with window := { s.window with
      commands := s.window.commands.set u.number code, results := s.window.results.set u.number r } }

/-- Do UNIT and INDEX select the COMMAND register of a unit, with PRST# not asserted? -/
def State.atCommand (s : State) (u : UnitId) : Bool := !s.window.prst && s.selection == .reg (.command u)

/-- What taking a command gives: the state and the result code. -/
structure Taken where
  state : State
  result : ResultCode

/-- The course of a command: the unit takes it whole within the write and answers it (R116, R183). -/
def onCommand (u : UnitId) (code : Byte) (take : State → Taken) (s : State) : State :=
  if s.atCommand u then
    let t := take s
    (storeCommand u code t.result t.state).finishAccess
  else s

/-- A command that is refused changes nothing (R25, R116). -/
def refuse (r : ResultCode) (s : State) : Taken := { state := s, result := r }

/-- A command that is accepted. -/
def accept (s : State) : Taken := { state := s, result := .accepted }

/-- The command codes each unit defines (R183). -/
def definesCommand : UnitId → Byte → Bool
  | .global, c => c == 1#8
  | .link, c => decide (1 ≤ c.toNat ∧ c.toNat ≤ 4)
  | .cycle, _ => false
  | .modules, c => decide (1 ≤ c.toNat ∧ c.toNat ≤ 5)
  | .image, c => decide (1 ≤ c.toNat ∧ c.toNat ≤ 4)
  | .slots, c => decide (1 ≤ c.toNat ∧ c.toNat ≤ 5)
  | .areas, c => decide (1 ≤ c.toNat ∧ c.toNat ≤ 2)
  | .notices, c => decide (1 ≤ c.toNat ∧ c.toNat ≤ 2)

end Sys2Proof.Machine
end

