-- ==== Sys2Proof/Machine/Reset.lean ====
section
/-! DEFINITION. The two resets: POWER_ON_RESET, PLATFORM_RESET, PLATFORM_RESET_RELEASE (R38, R64, R90, R108, R128, R140, R179, R186). -/

namespace Sys2Proof.Machine

/-- POWER_ON_RESET: every block at its power-on values, with no notice, no event and no link-down step (R38). -/
def execPowerOnReset (s : State) : Host.Outcome State Fault Refusal :=
  .next { State.reset with pending := s.pending }

/-- A module record under platform reset: the host fields and was-configured are kept, the state is mapped as at the
link-down step, the rest takes the platform column of Table 4-1 (R90). -/
def ModuleRecord.platformReset (m : ModuleRecord) : ModuleRecord :=
  { m.linkDown with repType := 0#16, repIn := 0#8, repOut := 0#8, repMax := 0#8, status := 0#8 }

/-- An area under platform reset: size and layout kept, emptied and unbound (R140). -/
def AreaRecord.platformReset (r : AreaRecord) : AreaRecord := { r.emptied with binding := none }

/-- The platform-reset values of every block, with PRST# asserted (R18, R38, R64, R90, R108, R128, R140, R179, R186). -/
def platformValues (s : State) : State where
  window := { RegisterWindow.reset with resetCause := .platform, prst := true }
  line := { LineEngine.reset with bitRate := s.link.bitRate, replyWindow := s.link.replyWindow }
  link := { LinkController.reset with
    bitRate := s.link.bitRate, replyWindow := s.link.replyWindow, threshold := s.link.threshold }
  sched := { Scheduler.reset with
    cycleLength := s.sched.cycleLength, scanLength := s.sched.scanLength, scanEntries := s.sched.scanEntries,
    searchVacant := s.sched.searchVacant }
  table := { subject := 0, records := mapVec ModuleRecord.platformReset s.table.records }
  image := { ImageUnit.reset with follow := s.image.follow, deadline := s.image.deadline }
  exch := { ExchangeUnit.reset with retryLimit := s.exch.retryLimit, holdLimit := s.exch.holdLimit }
  areas := { s.areas with subject := 0, records := mapVec AreaRecord.platformReset s.areas.records }
  notices := NoticeUnit.reset
  pending := s.pending

/-- PLATFORM_RESET: PRST# is asserted; every block takes its platform-reset values and holds them (R38, R186). -/
def execPlatformReset (s : State) : Host.Outcome State Fault Refusal := .next (platformValues s)

/-- PLATFORM_RESET_RELEASE: PRST# is released; the part stands at its platform-reset values (R186). -/
def execPlatformResetRelease (s : State) : Host.Outcome State Fault Refusal :=
  .next { s with window := { s.window with prst := false } }

end Sys2Proof.Machine
end

