-- ==== Sys2Proof/Machine/Window.lean ====
section
/-! DEFINITION. The register window's own commands: port writes, accesses that reach no register, REGISTER_WRITE, LOW_BYTE_READ, REGISTER_READ, UNKNOWN_COMMAND, CLEAR_ERROR (chapter 11); what the ports read as; and which row a DATA access is. -/

namespace Sys2Proof.Machine

/-! ### Ports -/

/-- UNIT_WRITE: the byte is kept and the read latch emptied; ignored while PRST# is asserted (R180, R182, R186). -/
def execUnitWrite (v : Byte) (s : State) : Host.Outcome State Fault Refusal :=
  .next (if s.window.prst then s else State.emptyLatch { s with window := { s.window with unit := v } })

/-- INDEX_WRITE: the byte is kept; the read latch stays; ignored while PRST# is asserted (R180, R182, R186). -/
def execIndexWrite (v : Byte) (s : State) : Host.Outcome State Fault Refusal :=
  .next (if s.window.prst then s else { s with window := { s.window with index := v } })

/-- A read of the UNIT port: the byte held, 00h while PRST# is asserted; nothing changes (R180, R186). -/
def unitPort (s : State) : Byte := if s.window.prst then 0#8 else s.window.unit

/-- A read of the INDEX port (R180, R186). -/
def indexPort (s : State) : Byte := if s.window.prst then 0#8 else s.window.index

/-- A read of the SUMMARY port: the pending event set with bit 7 reading 0; nothing changes (R178, R186). -/
def summaryPort (s : State) : Byte := if s.window.prst then 0#8 else s.notices.events &&& 0x7F#8

/-- The four ports (Table 11-1). -/
inductive Port where
  | unit | index | data | summary
deriving DecidableEq, Repr

/-- The port at an offset, by the levels of the pins A1 and A0, `true` for high: +0 UNIT, +1 INDEX, +2 DATA, +3 SUMMARY
(Table 11-1, R188). -/
def portAt (a1 a0 : Bool) : Port :=
  match a1, a0 with
  | false, false => .unit
  | false, true => .index
  | true, false => .data
  | true, true => .summary

/-- The byte a read of a port other than DATA returns; such a read changes nothing (R178, R180). -/
def Port.value (s : State) : Port → Option Byte
  | .unit => some (unitPort s)
  | .index => some (indexPort s)
  | .data => none
  | .summary => some (summaryPort s)

/-! ### Accesses that reach no register -/

/-- An access that reaches no register: the error is recorded, a read returns 00h, a write is ignored (R180, R181,
R184). -/
def missAccess (c : WindowCause) (a : Access) (s : State) : State :=
  let s1 := s.windowError c
  match a with
  | .read => (s1.returns 0#8).finishAccess
  | .write _ => s1.finishAccess

/-- An access while PRST# is asserted: a read returns 00h, a write is ignored (R186). -/
def accessInReset (a : Access) (s : State) : State :=
  match a with
  | .read => s.readInReset
  | .write _ => s

/-- NO_UNIT_ACCESS: a DATA access while UNIT holds 8 to 255 (R180). -/
def execNoUnitAccess (a : Access) (s : State) : Host.Outcome State Fault Refusal :=
  .next (if s.window.prst then accessInReset a s else if s.selection = .noUnit then missAccess .noUnit a s else s)

/-- NO_INDEX_ACCESS: a DATA access at an index with no register (R181). -/
def execNoIndexAccess (a : Access) (s : State) : Host.Outcome State Fault Refusal :=
  .next (if s.window.prst then accessInReset a s else if s.selection = .noIndex then missAccess .noIndex a s else s)

/-! ### Registers with no behaviour of their own -/

/-- A write to SUBJECT: a value in range selects, one out of range is ignored and records nothing (R66, R109, R132,
R181). -/
def writeSubject (u : UnitId) (v : Byte) (s : State) : State :=
  match u with
  | .modules =>
    match moduleIndex v.toNat with
    | some k => { s with table := { s.table with subject := k } }
    | none => s
  | .slots => if h : v.toNat < 8 then { s with exch := { s.exch with subject := ⟨v.toNat, h⟩ } } else s
  | .areas => if h : v.toNat < 4 then { s with areas := { s.areas with subject := ⟨v.toNat, h⟩ } } else s
  | .global => s
  | .link => s
  | .cycle => s
  | .image => s
  | .notices => s

/-- A write to a plain register: SUBJECT, image select (its low two bits), page (its low four bits) (R106, R181). -/
def writePlain (v : Byte) (r : Reg) (s : State) : State :=
  match r with
  | .subject u => writeSubject u v s
  | .byte .imageSelect => { s with image := { s.image with select := ⟨v.toNat % 4, by omega⟩ } }
  | .byte .page => { s with image := { s.image with page := ⟨v.toNat % 16, by omega⟩ } }
  | _ => s

/-- REGISTER_WRITE: a plain register takes the byte, a read-only register refuses it as READ_ONLY (R181, R106). -/
def execRegisterWrite (v : Byte) (s : State) : Host.Outcome State Fault Refusal :=
  .next (if s.writeClass = some .readOnly then onWrite .readOnly (fun _ => State.windowError .readOnly) s
    else onWrite .plain (writePlain v) s)

/-- LOW_BYTE_READ: the low byte is returned and the latch loaded with the high byte as it stands (R182). -/
def execLowByteRead (s : State) : Host.Outcome State Fault Refusal :=
  .next <|
    if s.window.prst then s.readInReset
    else
      match s.selection with
      | .reg (.lo f) =>
        let l : Latch :=
          { unit := s.window.unit, index := s.window.index + 1#8, value := hiByte (fieldValue s f) }
        let s1 := s.returns (loByte (fieldValue s f))
        State.advanceIndex { s1 with window := { s1.window with latch := some l } }
      | .reg _ => s
      | .noUnit => s
      | .noIndex => s

/-- The latch belongs to the register that UNIT and INDEX select (R182). -/
def RegisterWindow.latched (w : RegisterWindow) : Option Byte :=
  match w.latch with
  | some l => if l.unit = w.unit ∧ l.index = w.index then some l.value else none
  | none => none

/-- A read of a high byte: the latched byte, which empties the latch, or the byte as it stands, which leaves the latch
as it is (R182, log entry 7). -/
def readHigh (f : Field16) (s : State) : State :=
  match s.window.latched with
  | some v => (s.returns v).finishAccess
  | none => (s.returns (hiByte (fieldValue s f))).advanceIndex

/-- REGISTER_READ: a DATA read of an existing register other than a low byte and the data port (R181, R182). -/
def execRegisterRead (s : State) : Host.Outcome State Fault Refusal :=
  .next <|
    if s.window.prst then s.readInReset
    else
      match s.selection with
      | .reg (.lo _) => s
      | .reg .dataPort => s
      | .reg (.hi f) => readHigh f s
      | .reg r => (s.returns (regValue s r)).finishAccess
      | .noUnit => s
      | .noIndex => s

/-! ### Commands of the window -/

/-- UNKNOWN_COMMAND: a code the selected unit does not define (R183). -/
def execUnknownCommand (code : Byte) (s : State) : Host.Outcome State Fault Refusal :=
  .next <|
    match s.selection with
    | .reg (.command u) => if definesCommand u code then s else onCommand u code (refuse .unknownCommand) s
    | .reg _ => s
    | .noUnit => s
    | .noIndex => s

/-- The empty window error record (R184). -/
def WindowError.empty : WindowError := { cause := .none, unit := 0#8, index := 0#8, more := false }

/-- CLEAR_ERROR: the window error record is emptied; WINDOW_ERROR stays pending (R184). -/
def execClearError (s : State) : Host.Outcome State Fault Refusal :=
  .next (onCommand .global 0x01#8 (fun t => accept { t with window := { t.window with error := WindowError.empty } }) s)

/-! ### Which row a DATA access is -/

/-- The row of a command code of a unit (R183). -/
def commandRow (u : UnitId) (c : Byte) : Instr :=
  match u, c.toNat with
  | .global, 1 => .clearError
  | .link, 1 => .start
  | .link, 2 => .run
  | .link, 3 => .stop
  | .link, 4 => .shutdown
  | .modules, 1 => .expect
  | .modules, 2 => .adopt
  | .modules, 3 => .forget
  | .modules, 4 => .disable
  | .modules, 5 => .enable
  | .image, 1 => .commit
  | .image, 2 => .snapshot
  | .image, 3 => .freeze
  | .image, 4 => .release
  | .slots, 1 => .post
  | .slots, 2 => .retire
  | .slots, 3 => .restart
  | .slots, 4 => .abort
  | .slots, 5 => .resume
  | .areas, 1 => .configure
  | .areas, 2 => .flush
  | .notices, 1 => .pop
  | .notices, 2 => .clearLost
  | _, _ => .unknownCommand c

/-- The row of a DATA write of byte `v` at a register of a class. -/
def classRow (v : Byte) : WriteClass → Instr
  | .command => .unknownCommand v
  | .plain => .registerWrite v
  | .readOnly => .registerWrite v
  | .linkConfig => .linkConfigWrite v
  | .cycleLength => .cycleLengthWrite v
  | .scanList => .scanListWrite v
  | .searchVacant => .searchVacantWrite v
  | .moduleField => .moduleFieldWrite v
  | .staging => .stagingWrite v
  | .follow => .followWrite v
  | .deadline => .commitDeadlineWrite v
  | .slotField => .slotFieldWrite v
  | .exchangeLimit => .exchangeLimitWrite v
  | .stagedSize => .stagedSizeWrite v
  | .dataPort => .dataPortWrite v
  | .clearing => .clearingRegisterWrite v
  | .intEnable => .intEnableWrite v
  | .attnEnable => .attnEnableWrite v

/-- The row of the table that a DATA write of byte `v` is, by what UNIT and INDEX select (R180, R181). -/
def dataWriteRow (s : State) (v : Byte) : Instr :=
  match s.selection with
  | .noUnit => .noUnitAccess (.write v)
  | .noIndex => .noIndexAccess (.write v)
  | .reg (.command u) => commandRow u v
  | .reg r => classRow v (r.writeClass s.image.select)

/-- The row of the table that a DATA read is, by what UNIT and INDEX select (R180, R181, R182). -/
def dataReadRow (s : State) : Instr :=
  match s.selection with
  | .noUnit => .noUnitAccess .read
  | .noIndex => .noIndexAccess .read
  | .reg (.lo _) => .lowByteRead
  | .reg .dataPort => .dataPortRead
  | .reg _ => .registerRead

/-- The row of the table that a host write of byte `v` at a port is; a write to SUMMARY is ignored and is no row (R178,
R180). -/
def portWriteRow (p : Port) (s : State) (v : Byte) : Option Instr :=
  match p with
  | .unit => some (.unitWrite v)
  | .index => some (.indexWrite v)
  | .data => some (dataWriteRow s v)
  | .summary => none

/-- The row of the table that a host read at a port is; only a read of DATA is one (R178, R180). -/
def portReadRow (p : Port) (s : State) : Option Instr :=
  match p with
  | .data => some (dataReadRow s)
  | .unit | .index | .summary => none

end Sys2Proof.Machine
end

