-- ==== Sys2Proof/Machine/Link.lean ====
section
/-! DEFINITION. The commands of the link controller: START, RUN, STOP, SHUTDOWN, LINK_CONFIG_WRITE, LINE_CHECK_COMPLETE, LINE_CHECK_FAILED (chapter 2). -/

namespace Sys2Proof.Machine

/-- START in OFF (R26): line configuration, driven pair, CHECKING, count of high samples 0. -/
def startLink (s : State) : State :=
  let s1 : State := { s with line := { s.line with bitRate := s.link.bitRate, replyWindow := s.link.replyWindow } }
  let s2 := changeLink .checking .command (drivePair s1)
  { s2 with link := { s2.link with highSamples := 0 } }

def takeStart (s : State) : Taken := if s.link.state = .off then accept (startLink s) else refuse .wrongState s

/-- START (R25, R26). -/
def execStart (s : State) : Host.Outcome State Fault Refusal := .next (onCommand .link 0x01#8 takeStart s)

def takeRun (s : State) : Taken :=
  if s.link.state = .idle then accept (cycleStart false (changeLink .running .command s)) else refuse .wrongState s

/-- RUN (R25, R30): RUNNING, then the first cycle at once. -/
def execRun (s : State) : Host.Outcome State Fault Refusal := .next (onCommand .link 0x02#8 takeRun s)

/-- STOP in RUNNING (R31): STOPPING, and on to IDLE when no transaction is in flight. -/
def stopLink (s : State) : State :=
  let s1 := changeLink .stopping .command s
  if s1.line.txn.isNone then stopDone s1 else s1

def takeStop (s : State) : Taken := if s.link.state = .running then accept (stopLink s) else refuse .wrongState s

/-- STOP (R25, R31). -/
def execStop (s : State) : Host.Outcome State Fault Refusal := .next (onCommand .link 0x03#8 takeStop s)

def takeShutdown (s : State) : Taken :=
  if s.link.state = .off then refuse .wrongState s else accept (enterOff (cutTxn s))

/-- SHUTDOWN (R25, R33, R34). -/
def execShutdown (s : State) : Host.Outcome State Fault Refusal := .next (onCommand .link 0x04#8 takeShutdown s)

/-- A reply window below 16 is taken as 16 (R23). -/
def clampReplyWindow (v : Byte) : Byte := if v.toNat < 16 then 16#8 else v

/-- A failure threshold of 0 is taken as 1, one above 7 as 7; so is the retry limit (R23, R115). -/
def clampOneToSeven (v : Byte) : Byte := if v.toNat < 1 then 1#8 else if 7 < v.toNat then 7#8 else v

/-- A link configuration field takes a byte with range adjustment (R23). -/
def putLinkConfig (v : Byte) (r : Reg) (s : State) : State :=
  match r with
  | .byte .bitRate => { s with link := { s.link with bitRate := v &&& 0x03#8 } }
  | .byte .replyWindow => { s with link := { s.link with replyWindow := clampReplyWindow v } }
  | .byte .threshold => { s with link := { s.link with threshold := clampOneToSeven v } }
  | _ => s

/-- LINK_CONFIG_WRITE: taken in OFF, refused with WRONG_STATE otherwise (R23). -/
def execLinkConfigWrite (v : Byte) (s : State) : Host.Outcome State Fault Refusal :=
  .next (onWrite .linkConfig
    (fun r t => if t.link.state = .off then putLinkConfig v r t else t.windowError .wrongState) s)

/-- LINE_CHECK_COMPLETE: the 2,048th consecutive high sample; IDLE with CHECK_PASSED (R27, R29). -/
def execLineCheckComplete (s : State) : Host.Outcome State Fault Refusal :=
  .next (if s.link.state = .checking then
      changeLink .idle .checkPassed { s with link := { s.link with highSamples := Config.lineCheckSamples } }
    else s)

/-- LINE_CHECK_FAILED: a low sample after `highs` high ones; FAULT with LINE_HELD (R27, R28). -/
def execLineCheckFailed (highs : Nat) (s : State) : Host.Outcome State Fault Refusal :=
  .next (if s.link.state = .checking ∧ highs < Config.lineCheckSamples then
      enterFault .lineHeld { s with link := { s.link with highSamples := highs } }
    else s)

end Sys2Proof.Machine
end

