-- ==== Sys2Proof/Machine/Scheduling.lean ====
section
/-! DEFINITION. The commands of the cycle scheduler: CYCLE_LENGTH_WRITE, SCAN_LIST_WRITE, SEARCH_VACANT_WRITE, CYCLE_TIMER_EXPIRY (chapter 3). -/

namespace Sys2Proof.Machine

/-- A write that is taken while no cycles run and refused with WRONG_STATE in RUNNING and STOPPING (R39, R44, R56,
R115). -/
def whenNoCycles (effect : State → State) (s : State) : State :=
  if s.link.state.cycling then s.windowError .wrongState else effect s

/-- A cycle length below 64 is taken as 64 (R39). -/
def clampCycleLength (h : Half) : Half :=
  if h.toNat < Config.cycleLengthMin then BitVec.ofNat 16 Config.cycleLengthMin else h

/-- One byte of the cycle length, and the adjustment of the whole value (R39, R182). -/
def putCycleLength (v : Byte) (r : Reg) (s : State) : State :=
  match r with
  | .lo .cycleLength =>
    { s with sched := { s.sched with cycleLength := clampCycleLength (putLow s.sched.cycleLength v) } }
  | .hi .cycleLength =>
    { s with sched := { s.sched with cycleLength := clampCycleLength (putHigh s.sched.cycleLength v) } }
  | _ => s

/-- CYCLE_LENGTH_WRITE (R39). -/
def execCycleLengthWrite (v : Byte) (s : State) : Host.Outcome State Fault Refusal :=
  .next (onWrite .cycleLength (fun r => whenNoCycles (putCycleLength v r)) s)

/-- A scan list length above 32 is taken as 32 (R44). -/
def clampScanLength (v : Byte) : Byte := if 32 < v.toNat then 32#8 else v

/-- The scan list's length or one of its entries (R44). -/
def putScanList (v : Byte) (r : Reg) (s : State) : State :=
  match r with
  | .byte .scanLength => { s with sched := { s.sched with scanLength := clampScanLength v } }
  | .scanEntry j => { s with sched := { s.sched with scanEntries := s.sched.scanEntries.set j v } }
  | _ => s

/-- SCAN_LIST_WRITE (R44). -/
def execScanListWrite (v : Byte) (s : State) : Host.Outcome State Fault Refusal :=
  .next (onWrite .scanList (fun r => whenNoCycles (putScanList v r)) s)

/-- SEARCH_VACANT_WRITE: 0 turns it off, any other value on (R56). -/
def execSearchVacantWrite (v : Byte) (s : State) : Host.Outcome State Fault Refusal :=
  .next (onWrite .searchVacant
    (fun _ => whenNoCycles (fun t => { t with sched := { t.sched with searchVacant := v != 0#8 } })) s)

/-- What an expiry leads to, by link state and stage (Table of R40): with a transaction in flight the scheduler waits
for its end; in MARK and SCAN the cut is an overrun; in ACYCLIC, PROBE and REST the next cycle starts. -/
def afterExpiry (s : State) : State :=
  match s.link.state with
  | .running =>
    if s.line.txn.isSome then s
    else
      match s.sched.stage with
      | .mark => overrunCut false s
      | .scan => overrunCut false s
      | .acyclic => cycleStart false s
      | .probe => cycleStart false s
      | .rest => cycleStart false s
      | .none => s
  | .stopping => s
  | .off => s
  | .checking => s
  | .idle => s
  | .fault => s

/-- CYCLE_TIMER_EXPIRY: a running timer expires; a stopped or expired one does not (R40, R46, R49). -/
def execCycleTimerExpiry (s : State) : Host.Outcome State Fault Refusal :=
  .next (match s.sched.timer with
    | .running _ => afterExpiry { s with sched := { s.sched with timer := .expired } }
    | .stopped => s
    | .expired => s)

end Sys2Proof.Machine
end

