-- ==== Sys2Proof/Machine/ModuleCommands.lean ====
section
/-! DEFINITION. The commands of the module table: MODULE_FIELD_WRITE, EXPECT, ADOPT, FORGET, DISABLE, ENABLE (chapter 4). -/

namespace Sys2Proof.Machine

/-- A host field of a module record takes a byte (R66, R182). -/
def ModuleRecord.putField (v : Byte) (r : Reg) (m : ModuleRecord) : ModuleRecord :=
  match r with
  | .lo .expectedType => { m with expectedType := putLow m.expectedType v }
  | .hi .expectedType => { m with expectedType := putHigh m.expectedType v }
  | .lo .inOffset => { m with inOffset := putLow m.inOffset v }
  | .hi .inOffset => { m with inOffset := putHigh m.inOffset v }
  | .lo .outOffset => { m with outOffset := putLow m.outOffset v }
  | .hi .outOffset => { m with outOffset := putHigh m.outOffset v }
  | .byte .inLength => { m with inLength := v }
  | .byte .outLength => { m with outLength := v }
  | .byte .watchMask => { m with watchMask := v }
  | _ => m

/-- MODULE_FIELD_WRITE: taken unless the module is PRESENT or SUSPECT (R66). -/
def execModuleFieldWrite (v : Byte) (s : State) : Host.Outcome State Fault Refusal :=
  .next (onWrite .moduleField
    (fun r t => if t.selModule.state.inService then t.windowError .wrongState
      else t.updModule t.table.subject (ModuleRecord.putField v r)) s)

/-- The map check of EXPECT (R77). -/
def ModuleRecord.mapOk (m : ModuleRecord) : Bool :=
  decide (m.inLength.toNat ≤ Config.regionMax) && decide (m.outLength.toNat ≤ Config.regionMax) && m.regionsInside

/-- The states EXPECT is taken in (R77). -/
def ModuleState.expectable : ModuleState → Bool
  | .vacant | .found | .mismatch | .expected => true
  | .present | .suspect | .lost | .disabled => false

/-- A record that becomes EXPECTED by EXPECT (R77, R88). -/
def ModuleRecord.enterExpected (m : ModuleRecord) : ModuleRecord :=
  { m with state := .expected, mismatch := .none, failCount := 0, age := 255, refreshed := false }

def takeExpect (s : State) : Taken :=
  if !s.selModule.state.expectable then refuse .wrongState s
  else if !s.selModule.mapOk then refuse .badArgument s
  else accept (s.updModule s.table.subject ModuleRecord.enterExpected)

/-- EXPECT (R77). -/
def execExpect (s : State) : Host.Outcome State Fault Refusal := .next (onCommand .modules 0x01#8 takeExpect s)

/-- The states ADOPT is taken in (R78). -/
def ModuleState.adoptable : ModuleState → Bool
  | .found | .mismatch => true
  | .vacant | .expected | .present | .suspect | .lost | .disabled => false

def takeAdopt (s : State) : Taken :=
  let m := s.selModule
  if !m.state.adoptable then refuse .wrongState s
  else if !(m.formatOk && m.lengthOk) then refuse .badArgument s
  else accept (s.updModule s.table.subject (fun r => { r.enterPresent with expectedType := r.repType }))

/-- ADOPT (R78). -/
def execAdopt (s : State) : Host.Outcome State Fault Refusal := .next (onCommand .modules 0x02#8 takeAdopt s)

/-- The module holds nothing and has no waiting slot (R79, R80). -/
def ModuleRecord.unused (m : ModuleRecord) : Bool := m.holder == .none && m.waiting.isEmpty

/-- The fields FORGET and DISABLE set beside the state (R79, R80). -/
def ModuleRecord.setAside (st : ModuleState) (m : ModuleRecord) : ModuleRecord :=
  { m with state := st, failCount := 0, cancelHold := 0, age := 255, refreshed := false, mismatch := .none }

def takeForget (s : State) : Taken :=
  if s.selModule.state = .disabled then refuse .wrongState s
  else if !s.selModule.unused then refuse .inUse s
  else accept (s.updModule s.table.subject (ModuleRecord.setAside .vacant))

/-- FORGET (R79). -/
def execForget (s : State) : Host.Outcome State Fault Refusal := .next (onCommand .modules 0x03#8 takeForget s)

/-- The states after which DISABLE records was-configured (R80). -/
def ModuleState.configured : ModuleState → Bool
  | .expected | .present | .suspect | .lost | .mismatch => true
  | .vacant | .found | .disabled => false

def takeDisable (s : State) : Taken :=
  if s.selModule.state = .disabled then refuse .wrongState s
  else if !s.selModule.unused then refuse .inUse s
  else accept (s.updModule s.table.subject (fun m =>
    { m.setAside .disabled with wasConfigured := m.state.configured }))

/-- DISABLE (R80). -/
def execDisable (s : State) : Host.Outcome State Fault Refusal := .next (onCommand .modules 0x04#8 takeDisable s)

def takeEnable (s : State) : Taken :=
  if s.selModule.state = .disabled then
    accept (s.updModule s.table.subject (fun m =>
      { m with state := if m.wasConfigured then .expected else .vacant, age := 255, refreshed := false }))
  else refuse .wrongState s

/-- ENABLE (R81). -/
def execEnable (s : State) : Host.Outcome State Fault Refusal := .next (onCommand .modules 0x05#8 takeEnable s)

end Sys2Proof.Machine
end

