-- ==== Sys2Proof/Machine/ImageCommands.lean ====
section
/-! DEFINITION. The commands of the image unit: STAGING_WRITE, FOLLOW_WRITE, COMMIT_DEADLINE_WRITE, COMMIT, SNAPSHOT, FREEZE, RELEASE (chapter 5). -/

namespace Sys2Proof.Machine

/-- A byte of the staging output image at a byte index of the page (R99, R106). -/
def putStaging (v : Byte) (r : Reg) (s : State) : State :=
  match r with
  | .imageByte j => { s with image := { s.image with staging := s.image.staging.write (s.image.address j) v } }
  | _ => s

/-- STAGING_WRITE (R99, R106). -/
def execStagingWrite (v : Byte) (s : State) : Host.Outcome State Fault Refusal := .next (onWrite .staging (putStaging v) s)

/-- FOLLOW_WRITE: 0 turns FOLLOW off, any other value on (R95). -/
def execFollowWrite (v : Byte) (s : State) : Host.Outcome State Fault Refusal :=
  .next (onWrite .follow (fun _ t => { t with image := { t.image with follow := v != 0#8 } }) s)

/-- COMMIT_DEADLINE_WRITE: taken at once; the supervision counter stays (R104). -/
def execCommitDeadlineWrite (v : Byte) (s : State) : Host.Outcome State Fault Refusal :=
  .next (onWrite .deadline (fun _ t => { t with image := { t.image with deadline := v } }) s)

def takeCommit (s : State) : Taken := accept { s with image := { s.image with commitPending := true } }

/-- COMMIT (R101). -/
def execCommit (s : State) : Host.Outcome State Fault Refusal := .next (onCommand .image 0x01#8 takeCommit s)

def takeSnapshot (s : State) : Taken :=
  if s.image.follow then refuse .wrongState s
  else accept { s with image := { s.image with snapshotPending := true } }

/-- SNAPSHOT (R96). -/
def execSnapshot (s : State) : Host.Outcome State Fault Refusal := .next (onCommand .image 0x02#8 takeSnapshot s)

def takeFreeze (s : State) : Taken :=
  if s.image.freeze then refuse .wrongState s else accept { s with image := { s.image with freeze := true } }

/-- FREEZE (R97). -/
def execFreeze (s : State) : Host.Outcome State Fault Refusal := .next (onCommand .image 0x03#8 takeFreeze s)

def takeRelease (s : State) : Taken :=
  if s.image.freeze then accept { s with image := { s.image with freeze := false } } else refuse .wrongState s

/-- RELEASE (R97). -/
def execRelease (s : State) : Host.Outcome State Fault Refusal := .next (onCommand .image 0x04#8 takeRelease s)

end Sys2Proof.Machine
end

