-- ==== Sys2Proof/Machine/SlotCommands.lean ====
section
/-! DEFINITION. The commands of the exchange unit: SLOT_FIELD_WRITE, EXCHANGE_LIMIT_WRITE, POST, RETIRE, RESTART, ABORT, RESUME (chapters 6 and 9). -/

namespace Sys2Proof.Machine

/-- A host field of a slot takes a byte; the area field keeps its low two bits (R110, R182). -/
def SlotHost.putField (v : Byte) (r : Reg) (h : SlotHost) : SlotHost :=
  match r with
  | .byte .moduleAddr => { h with moduleAddr := v }
  | .byte .kind => { h with kind := v }
  | .lo .tag => { h with tag := putLow h.tag v }
  | .hi .tag => { h with tag := putHigh h.tag v }
  | .lo .declared => { h with declared := putLow h.declared v }
  | .hi .declared => { h with declared := putHigh h.declared v }
  | .byte .area => { h with area := ⟨v.toNat % 4, by omega⟩ }
  | .byte .pieceLimit => { h with pieceLimit := v }
  | .byte .blockLength => { h with blockLength := v }
  | .blockByte j => { h with block := h.block.set j v }
  | _ => h

/-- SLOT_FIELD_WRITE: taken while the slot is FREE, refused with WRONG_STATE otherwise (R110). -/
def execSlotFieldWrite (v : Byte) (s : State) : Host.Outcome State Fault Refusal :=
  .next (onWrite .slotField
    (fun r t => if t.selSlot.state = .free then
        t.updSlot t.exch.subject (fun x => { x with host := x.host.putField v r })
      else t.windowError .wrongState) s)

/-- The retry limit with its adjustment, or the hold limit (R115). -/
def putLimit (v : Byte) (r : Reg) (s : State) : State :=
  match r with
  | .byte .retryLimit => { s with exch := { s.exch with retryLimit := clampOneToSeven v } }
  | .byte .holdLimit => { s with exch := { s.exch with holdLimit := v } }
  | _ => s

/-- EXCHANGE_LIMIT_WRITE (R115). -/
def execExchangeLimitWrite (v : Byte) (s : State) : Host.Outcome State Fault Refusal :=
  .next (onWrite .exchangeLimit (fun r => whenNoCycles (putLimit v r)) s)

/-- The host fields describe a usable exchange (R117 check 2). -/
def SlotHost.usable (h : SlotHost) : Bool :=
  (moduleIndex h.moduleAddr.toNat).isSome && decide (h.kind.toNat ≤ 2) &&
    (if h.kind = 0#8 then h.declared == 0#16 else h.declared != 0#16) &&
    decide (1 ≤ h.pieceLimit.toNat ∧ h.pieceLimit.toNat ≤ 64) &&
    decide (4 ≤ h.blockLength.toNat ∧ h.blockLength.toNat ≤ 16)

/-- The run-time fields cleared (R111). -/
def clearRun (n : Fin 8) (s : State) : State := s.updSlot n (fun x => { x with run := SlotRun.cleared })

/-- For WRITE and READ, the named area becomes bound to the slot (R118, R136). -/
def bindArea (n : Fin 8) (h : SlotHost) (s : State) : State :=
  match h.direction with
  | some d => s.setArea h.area { s.areaAt h.area with binding := some { slot := n, direction := d } }
  | none => s

/-- For WRITE and READ, the slot's area becomes unbound (R120, R136). -/
def unbindArea (h : SlotHost) (s : State) : State :=
  match h.direction with
  | some _ => s.setArea h.area { s.areaAt h.area with binding := none }
  | none => s

/-- What becomes of an accepted POST (R118): cleared fields, binding, QUEUED, waiting list. -/
def postSlot (n : Fin 8) (s : State) : State := enqueueSlot n (bindArea n (s.slotAt n).host (clearRun n s))

/-- The checks of POST in their order (R117). -/
def takePost (s : State) : Taken :=
  let x := s.selSlot
  let r := s.areaAt x.host.area
  if x.state ≠ .free then refuse .wrongState s
  else if !x.host.usable then refuse .badArgument s
  else if !s.moduleTakesSlot x then refuse .absent s
  else if x.host.direction.isSome && r.binding.isSome then refuse .areaBusy s
  else if x.host.direction.isSome && r.size == 0 then refuse .noRoom s
  else accept (postSlot s.exch.subject s)

/-- POST (R117, R118). -/
def execPost (s : State) : Host.Outcome State Fault Refusal := .next (onCommand .slots 0x01#8 takePost s)

/-- The cancel owed by an ABORTED slot with a recorded phase (R120 step 1). -/
def oweCancel (n : Fin 8) (s : State) : State :=
  let x := s.slotAt n
  if x.state = .aborted ∧ x.run.recordedPhase ≠ .none then
    s.updModuleOf x (ModuleRecord.releaseForCancel n x.host.tag)
  else s

/-- The effects of RETIRE in their order (R120). -/
def retireSlot (n : Fin 8) (s : State) : State :=
  (clearRun n (unbindArea (s.slotAt n).host (oweCancel n s))).updSlot n (fun x => { x with state := .free })

def takeRetire (s : State) : Taken :=
  if s.selSlot.state.ended then accept (retireSlot s.exch.subject s) else refuse .wrongState s

/-- RETIRE (R120). -/
def execRetire (s : State) : Host.Outcome State Fault Refusal := .next (onCommand .slots 0x02#8 takeRetire s)

/-- DONE, FAILED, or ABORTED with recorded phase NONE (R121). -/
def Slot.restartable (x : Slot) : Bool :=
  match x.state with
  | .done => true
  | .failed => true
  | .aborted => x.run.recordedPhase == .none
  | .free | .queued | .opening | .transferring | .closing | .abortPending => false

def takeRestart (s : State) : Taken :=
  if !s.selSlot.restartable then refuse .wrongState s
  else if !s.moduleTakesSlot s.selSlot then refuse .absent s
  else accept (enqueueSlot s.exch.subject (clearRun s.exch.subject s))

/-- RESTART (R121). -/
def execRestart (s : State) : Host.Outcome State Fault Refusal := .next (onCommand .slots 0x03#8 takeRestart s)

/-- ABORT of a QUEUED slot: out of the waiting list, ABORTED with phase NONE (R160). -/
def abortQueued (n : Fin 8) (s : State) : State :=
  abortInPhase n (s.updModuleOf (s.slotAt n) (ModuleRecord.remove n))

/-- ABORT over a request in flight: ABORT_PENDING, the phase kept, abort-requested set (R162). -/
def abortInFlight (n : Fin 8) (s : State) : State :=
  s.updSlot n (fun x => { x with state := .abortPending, run := { x.run with abortRequested := true } })

/-- ABORT by the slot's state and its request in flight (R160, R161, R162). -/
def takeAbort (s : State) : Taken :=
  let n := s.exch.subject
  let x := s.selSlot
  if x.state = .queued then accept (abortQueued n s)
  else if !x.state.inPhase then refuse .wrongState s
  else if x.inFlight.isSome then accept (abortInFlight n s)
  else accept (abortInPhase n s)

/-- ABORT (R160, R161, R162). -/
def execAbort (s : State) : Host.Outcome State Fault Refusal := .next (onCommand .slots 0x04#8 takeAbort s)

/-- The fields RESUME clears (R166, R167). -/
def Slot.resumed (x : Slot) : Slot :=
  { x with run := { x.run with errCount := 0, holdCount := 0, deferred := false, abortRequested := false } }

/-- RESUME by the recorded phase (R166, R167). -/
def takeResume (s : State) : Taken :=
  let n := s.exch.subject
  let x := s.selSlot
  if x.state ≠ .aborted then refuse .wrongState s
  else if x.run.recordedPhase = .none then
    if !s.moduleTakesSlot x then refuse .absent s
    else accept (enqueueSlot n (s.updSlot n Slot.resumed))
  else accept (s.updSlot n (fun y => { y.resumed with state := y.run.recordedPhase.state }))

/-- RESUME (R166, R167). -/
def execResume (s : State) : Host.Outcome State Fault Refusal := .next (onCommand .slots 0x05#8 takeResume s)

end Sys2Proof.Machine
end

