-- ==== Sys2Proof/Machine/AreaCommands.lean ====
section
/-! DEFINITION. The commands of the area unit: STAGED_SIZE_WRITE, CONFIGURE, FLUSH, DATA_PORT_WRITE, DATA_PORT_READ (chapter 7). -/

namespace Sys2Proof.Machine

/-- A staged size entry keeps the byte as written (R130). -/
def putStaged (v : Byte) (r : Reg) (s : State) : State :=
  match r with
  | .staged a => { s with areas := { s.areas with staged := s.areas.staged.set a v } }
  | _ => s

/-- STAGED_SIZE_WRITE (R130). -/
def execStagedSizeWrite (v : Byte) (s : State) : Host.Outcome State Fault Refusal :=
  .next (onWrite .stagedSize (putStaged v) s)

/-- A staged size in bytes (R129, R130). -/
def AreaUnit.stagedBytes (u : AreaUnit) (a : Fin 4) : Nat := u.staged[a].toNat * Config.areaUnitBytes

/-- The sum of the staged table, in units (R131). -/
def AreaUnit.stagedUnits (u : AreaUnit) : Nat := (allAreas.map (fun a => u.staged[a].toNat)).sum

/-- An empty, unbound area of a size at a start (R131). -/
def freshArea (start size : Nat) : AreaRecord := { size := size, start := start, fill := 0, oldest := 0, binding := none }

/-- The four areas laid out one after another in area order and emptied (R129, R131). -/
def AreaUnit.layout (u : AreaUnit) : Vector AreaRecord 4 :=
  let b0 := u.stagedBytes 0
  let b1 := u.stagedBytes 1
  let b2 := u.stagedBytes 2
  let b3 := u.stagedBytes 3
  #v[freshArea 0 b0, freshArea b0 b1, freshArea (b0 + b1) b2, freshArea (b0 + b1 + b2) b3]

/-- Is any area bound to a slot (R131)? -/
def State.anyAreaBound (s : State) : Bool := allAreas.any (fun a => (s.areaAt a).binding.isSome)

/-- CONFIGURE: bindings, then the total, then the layout (R131). -/
def takeConfigure (s : State) : Taken :=
  if s.anyAreaBound then refuse .inUse s
  else if Config.areaUnitsTotal < s.areas.stagedUnits then refuse .badArgument s
  else accept { s with areas := { s.areas with records := s.areas.layout } }

/-- CONFIGURE (R131). -/
def execConfigure (s : State) : Host.Outcome State Fault Refusal := .next (onCommand .areas 0x01#8 takeConfigure s)

/-- An area FLUSH empties: unbound, or bound to a DONE or FAILED slot (R135). -/
def flushable (r : AreaRecord) (s : State) : Bool :=
  match r.binding with
  | none => true
  | some b => (s.slotAt b.slot).state == .done || (s.slotAt b.slot).state == .failed

def takeFlush (s : State) : Taken :=
  if flushable s.selArea s then accept (s.setArea s.areas.subject s.selArea.emptied) else refuse .inUse s

/-- FLUSH (R135). -/
def execFlush (s : State) : Host.Outcome State Fault Refusal := .next (onCommand .areas 0x02#8 takeFlush s)

/-- An area's binding serves this direction (R133, R134). -/
def AreaRecord.serves (d : Direction) (r : AreaRecord) : Bool :=
  match r.binding with
  | some b => b.direction == d
  | none => false

/-- A host write to the data port: direction, room, then the byte (R133). -/
def writeDataPort (v : Byte) (s : State) : State :=
  let r := s.selArea
  if r.serves .read then s.windowError .wrongState
  else if r.size ≤ r.fill then s.windowError .areaFull
  else appendToArea s.areas.subject [v] s

/-- Do UNIT and INDEX select the data port, with PRST# not asserted? -/
def State.atDataPort (s : State) : Bool := !s.window.prst && s.selection == .reg .dataPort

/-- DATA_PORT_WRITE (R133). -/
def execDataPortWrite (v : Byte) (s : State) : Host.Outcome State Fault Refusal :=
  if s.atDataPort then
    if s.selArea.inside then .next (onWrite .dataPort (fun _ => writeDataPort v) s) else .fault .areaOutside
  else .next s

/-- A host read of the data port: direction, emptiness, then the oldest byte leaves (R134). -/
def readDataPort (s : State) : State :=
  let r := s.selArea
  if r.serves .write then (s.windowError .wrongState).returns 0#8
  else if r.fill = 0 then (s.windowError .areaEmpty).returns 0#8
  else (s.setArea s.areas.subject (r.consume 1)).returns ((r.peek s.areas.memory 1).headD 0#8)

/-- DATA_PORT_READ (R134). -/
def execDataPortRead (s : State) : Host.Outcome State Fault Refusal :=
  if s.window.prst then .next s.readInReset
  else if s.atDataPort then
    if s.selArea.inside then .next (readDataPort s).finishAccess else .fault .areaOutside
  else .next s

end Sys2Proof.Machine
end

