-- ==== Sys2Proof/Machine/NoticeCommands.lean ====
section
/-! DEFINITION. The commands of the notice unit: POP, CLEAR_LOST, CLEARING_REGISTER_WRITE, INT_ENABLE_WRITE, ATTN_ENABLE_WRITE, ATTN_PULSE_START, ATTN_PULSE_END (chapter 10). -/

namespace Sys2Proof.Machine

def takePop (s : State) : Taken :=
  if s.notices.queue.isEmpty then refuse .wrongState s else accept { s with notices := s.notices.pop }

/-- POP (R174). -/
def execPop (s : State) : Host.Outcome State Fault Refusal := .next (onCommand .notices 0x01#8 takePop s)

def takeClearLost (s : State) : Taken :=
  accept { s with notices := { s.notices with lostCount := 0, overflow := false } }

/-- CLEAR_LOST (R173). -/
def execClearLost (s : State) : Host.Outcome State Fault Refusal := .next (onCommand .notices 0x02#8 takeClearLost s)

/-- CLEARING_REGISTER_WRITE (R175). -/
def execClearingRegisterWrite (v : Byte) (s : State) : Host.Outcome State Fault Refusal :=
  .next (onWrite .clearing (fun _ t => { t with notices := t.notices.clearNamed v }) s)

/-- INT_ENABLE_WRITE (R176). -/
def execIntEnableWrite (v : Byte) (s : State) : Host.Outcome State Fault Refusal :=
  .next (onWrite .intEnable (fun _ t => { t with notices := t.notices.setIntEnable v }) s)

/-- ATTN_ENABLE_WRITE (R176, R177). -/
def execAttnEnableWrite (v : Byte) (s : State) : Host.Outcome State Fault Refusal :=
  .next (onWrite .attnEnable (fun _ t => { t with notices := t.notices.setAttnEnable v }) s)

/-- ATTN_PULSE_START: with pulses owed and ATTN low, ATTN goes high and one pulse is given (R177). -/
def execAttnPulseStart (s : State) : Host.Outcome State Fault Refusal :=
  .next (if !s.notices.attnLine && decide (0 < s.notices.attnOwed) then
      { s with notices := { s.notices with attnLine := true, attnOwed := s.notices.attnOwed - 1 } }
    else s)

/-- ATTN_PULSE_END: ATTN returns low (R177). -/
def execAttnPulseEnd (s : State) : Host.Outcome State Fault Refusal :=
  .next { s with notices := { s.notices with attnLine := false } }

end Sys2Proof.Machine
end

