-- ==== Sys2Proof/Machine/LineEvents.lean ====
section
/-! DEFINITION. The events of the line engine: GAP_ELAPSED, REQUEST_ECHOED, ECHO_MISMATCH, REPLY_WINDOW_EXPIRY, REPLY_START, RECEIVE_FAULT, QUIET_LIMIT_EXPIRY, SETTLING_END, REPLY_RECEIVED (chapter 1). -/

namespace Sys2Proof.Machine

/-- The transaction in flight, if it is in a phase (R9). -/
def State.txnIn (p : TxnPhase) (s : State) : Option Txn := s.line.txn.filter (fun t => t.phase == p)

/-- The transaction record replaced, with the pins of its phase (R4). -/
def setTxn (t : Txn) (lde : Bool) (ltx : LtxLevel) (s : State) : State :=
  { s with line := { s.line with txn := some t, lde := lde, ltx := ltx } }

/-- An event that may end a transaction reaches images and areas: it is taken where every region of a module in service
and every area lies inside its memory (R92, R139), and faults in any other state `s`. -/
def whenAddressed (s : State) (t : State) : Host.Outcome State Fault Refusal :=
  if !s.regionsInside then .fault .imageRegionOutside
  else if !s.areasInside then .fault .areaOutside
  else .next t

/-- GAP_ELAPSED: SENDING, and the request's first character begins (R10). -/
def execGapElapsed (s : State) : Host.Outcome State Fault Refusal :=
  .next (match s.txnIn .gap with
    | some t => setTxn { t with phase := .sending } true (.frame (lineLevels t.sent)) (s.elapse Config.gapBits)
    | none => s)

/-- The request echoed correctly: the count is 0; a MARK ends, any other request awaits its reply (R11, R13, R19). -/
def echoed (t : Txn) (order : EndOrder) (s : State) : State :=
  let s1 := s.elapse (Config.characterBits * t.characters)
  let s2 : State := { s1 with line := { s1.line with echoFaults := 0 } }
  if t.kind = .mark then endTxn t (.reply none) order s2 else setTxn { t with phase := .awaiting } false .idle s2

/-- REQUEST_ECHOED: every character read back is equal to the one sent (R11, R13). -/
def execRequestEchoed (s : State) (readBack : List Character := []) (order : EndOrder := .decisionFirst) :
    Host.Outcome State Fault Refusal :=
  match s.txnIn .sending with
  | some t => if t.echoedBy readBack then whenAddressed s (echoed t order s) else .next s
  | none => .next s

/-- ECHO_MISMATCH: the last character read back differs; after its stop bit the pair is released and SETTLING entered
(R12). -/
def execEchoMismatch (readBack : List Character) (s : State) : Host.Outcome State Fault Refusal :=
  .next (match s.txnIn .sending with
    | some t =>
      if t.differsAtLast readBack then
        setTxn { t with phase := .settling, settling := some .echoFault } false .idle
          (s.elapse (Config.characterBits * readBack.length))
      else s
    | none => s)

/-- REPLY_WINDOW_EXPIRY: no start bit within the window; TIMEOUT (R13). -/
def execReplyWindowExpiry (s : State) (order : EndOrder := .decisionFirst) : Host.Outcome State Fault Refusal :=
  match s.txnIn .awaiting with
  | some t => whenAddressed s (endTxn t .timeout order (s.elapse s.window0))
  | none => .next s

/-- REPLY_START: a start bit `wait` bit times into the window; RECEIVING (R13). -/
def execReplyStart (wait : Nat) (s : State) : Host.Outcome State Fault Refusal :=
  .next (match s.txnIn .awaiting with
    | some t =>
      if wait ≤ s.window0 then setTxn { t with phase := .receiving, received := [] } false .idle (s.elapse wait) else s
    | none => s)

/-- Bit times of received characters with idle time between them (R3, R14). -/
def receivedBits (characters : List Byte) (idle : Nat) : Nat := Config.characterBits * characters.length + idle

/-- RECEIVE_FAULT: a bad stop bit or a header fault; SETTLING with cause CORRUPT (R15). -/
def execReceiveFault (characters : List Byte) (badStop : Bool) (idle : Nat) (s : State) :
    Host.Outcome State Fault Refusal :=
  .next (match s.txnIn .receiving with
    | some t =>
      if receiveFaultMet characters badStop then
        setTxn { t with phase := .settling, received := characters, settling := some .corrupt } false .idle
          (s.elapse (receivedBits characters idle))
      else s
    | none => s)

/-- QUIET_LIMIT_EXPIRY: 20 quiet bit times between reply characters; CORRUPT (R14). -/
def execQuietLimitExpiry (characters : List Byte) (idle : Nat) (s : State) (order : EndOrder := .decisionFirst) :
    Host.Outcome State Fault Refusal :=
  match s.txnIn .receiving with
  | some t =>
    if replyCutShort characters then
      whenAddressed s (endTxn t .corrupt order (s.elapse (receivedBits characters idle + Config.quietBits)))
    else .next s
  | none => .next s

/-- The outcome a settling wait ends in (R12, R15). -/
def settlingOutcome : Option SettlingCause → TxnOutcome
  | some .echoFault => .echoFault
  | some .corrupt => .corrupt
  | none => .corrupt

/-- SETTLING_END: 20 quiet bit times in SETTLING; ECHO_FAULT or CORRUPT by the settling cause (R12, R15). -/
def execSettlingEnd (wait : Nat) (s : State) (order : EndOrder := .decisionFirst) :
    Host.Outcome State Fault Refusal :=
  match s.txnIn .settling with
  | some t =>
    if Config.quietBits ≤ wait then whenAddressed s (endTxn t (settlingOutcome t.settling) order (s.elapse wait))
    else .next s
  | none => .next s

/-- REPLY_RECEIVED: the reply ended at its declared length and is classified (R14, R16). -/
def execReplyReceived (frame : List Byte) (idle : Nat) (s : State) (order : EndOrder := .decisionFirst) :
    Host.Outcome State Fault Refusal :=
  match s.txnIn .receiving with
  | some t =>
    if replyComplete frame then
      whenAddressed s (endTxn t (classifyReply t frame) order (s.elapse (receivedBits frame idle)))
    else .next s
  | none => .next s

/-- No command is waiting: a decision of the scheduler that is due is taken, else nothing happens (R50, log entries 1
and 20). -/
def whenIdle (s : State) : Host.Outcome State Fault Refusal :=
  if s.decisionDue then whenAddressed s (nextDecision s) else .next s

end Sys2Proof.Machine
end

