-- ==== Sys2Proof/Machine/Dispatch.lean ====
section
/-! DEFINITION. One arm per command of the block. -/

namespace Sys2Proof.Machine

def exec (i : Instr) (s : State) : Host.Outcome State Fault Refusal :=
  match i with
  | .powerOnReset => Sys2Proof.Machine.execPowerOnReset s
  | .platformReset => Sys2Proof.Machine.execPlatformReset s
  | .platformResetRelease => Sys2Proof.Machine.execPlatformResetRelease s
  | .unitWrite v => Sys2Proof.Machine.execUnitWrite v s
  | .indexWrite v => Sys2Proof.Machine.execIndexWrite v s
  | .noUnitAccess a => Sys2Proof.Machine.execNoUnitAccess a s
  | .noIndexAccess a => Sys2Proof.Machine.execNoIndexAccess a s
  | .registerWrite v => Sys2Proof.Machine.execRegisterWrite v s
  | .lowByteRead => Sys2Proof.Machine.execLowByteRead s
  | .unknownCommand c => Sys2Proof.Machine.execUnknownCommand c s
  | .clearError => Sys2Proof.Machine.execClearError s
  | .start => Sys2Proof.Machine.execStart s
  | .run => Sys2Proof.Machine.execRun s
  | .stop => Sys2Proof.Machine.execStop s
  | .shutdown => Sys2Proof.Machine.execShutdown s
  | .linkConfigWrite v => Sys2Proof.Machine.execLinkConfigWrite v s
  | .cycleLengthWrite v => Sys2Proof.Machine.execCycleLengthWrite v s
  | .scanListWrite v => Sys2Proof.Machine.execScanListWrite v s
  | .searchVacantWrite v => Sys2Proof.Machine.execSearchVacantWrite v s
  | .moduleFieldWrite v => Sys2Proof.Machine.execModuleFieldWrite v s
  | .expect => Sys2Proof.Machine.execExpect s
  | .adopt => Sys2Proof.Machine.execAdopt s
  | .forget => Sys2Proof.Machine.execForget s
  | .disable => Sys2Proof.Machine.execDisable s
  | .enable => Sys2Proof.Machine.execEnable s
  | .stagingWrite v => Sys2Proof.Machine.execStagingWrite v s
  | .followWrite v => Sys2Proof.Machine.execFollowWrite v s
  | .commitDeadlineWrite v => Sys2Proof.Machine.execCommitDeadlineWrite v s
  | .commit => Sys2Proof.Machine.execCommit s
  | .snapshot => Sys2Proof.Machine.execSnapshot s
  | .freeze => Sys2Proof.Machine.execFreeze s
  | .release => Sys2Proof.Machine.execRelease s
  | .slotFieldWrite v => Sys2Proof.Machine.execSlotFieldWrite v s
  | .exchangeLimitWrite v => Sys2Proof.Machine.execExchangeLimitWrite v s
  | .post => Sys2Proof.Machine.execPost s
  | .retire => Sys2Proof.Machine.execRetire s
  | .restart => Sys2Proof.Machine.execRestart s
  | .abort => Sys2Proof.Machine.execAbort s
  | .resume => Sys2Proof.Machine.execResume s
  | .stagedSizeWrite v => Sys2Proof.Machine.execStagedSizeWrite v s
  | .configure => Sys2Proof.Machine.execConfigure s
  | .flush => Sys2Proof.Machine.execFlush s
  | .dataPortWrite v => Sys2Proof.Machine.execDataPortWrite v s
  | .dataPortRead => Sys2Proof.Machine.execDataPortRead s
  | .pop => Sys2Proof.Machine.execPop s
  | .clearLost => Sys2Proof.Machine.execClearLost s
  | .clearingRegisterWrite v => Sys2Proof.Machine.execClearingRegisterWrite v s
  | .intEnableWrite v => Sys2Proof.Machine.execIntEnableWrite v s
  | .attnEnableWrite v => Sys2Proof.Machine.execAttnEnableWrite v s
  | .lineCheckComplete => Sys2Proof.Machine.execLineCheckComplete s
  | .lineCheckFailed n => Sys2Proof.Machine.execLineCheckFailed n s
  | .cycleTimerExpiry => Sys2Proof.Machine.execCycleTimerExpiry s
  | .gapElapsed => Sys2Proof.Machine.execGapElapsed s
  | .requestEchoed rb o => Sys2Proof.Machine.execRequestEchoed s rb o
  | .echoMismatch rb => Sys2Proof.Machine.execEchoMismatch rb s
  | .replyWindowExpiry o => Sys2Proof.Machine.execReplyWindowExpiry s o
  | .replyStart w => Sys2Proof.Machine.execReplyStart w s
  | .receiveFault cs b w => Sys2Proof.Machine.execReceiveFault cs b w s
  | .quietLimitExpiry cs w o => Sys2Proof.Machine.execQuietLimitExpiry cs w s o
  | .settlingEnd w o => Sys2Proof.Machine.execSettlingEnd w s o
  | .replyReceived f w o => Sys2Proof.Machine.execReplyReceived f w s o
  | .attnPulseStart => Sys2Proof.Machine.execAttnPulseStart s
  | .attnPulseEnd => Sys2Proof.Machine.execAttnPulseEnd s
  | .registerRead => Sys2Proof.Machine.execRegisterRead s

end Sys2Proof.Machine
end

