-- ==== Sys2Proof/Machine/Step.lean ====
section
/-! DEFINITION. One step of the block: the command at the front of the queue is taken; on an empty queue a decision of the scheduler that is due is taken, and else the block idles. -/

namespace Sys2Proof.Machine

/-- Take the command at the front of the queue and run its meaning on the state with the queue's rest; with no command
waiting the scheduler takes a decision that is due, and else nothing happens (log entry 1). -/
def step (s : State) : Host.Outcome State Fault Refusal :=
  match s.pending with
  | [] => whenIdle s
  | c :: rest => exec c { s with pending := rest }

/-- The state with the command a word spells put at the front of its queue; no word of the table spells one. -/
def State.withFetchWord (s : State) (nbits w : Nat) : State :=
  match decodeTableWord nbits w with
  | some c => { s with pending := c :: s.pending }
  | none => s

end Sys2Proof.Machine
end

