-- ==== Sys2Proof/Safety.lean ====
section
/-! DEFINITION. What a lawful state of the part is, block by block, in the laws the rules state; and the two courses of an accepted host access, written out, in which statements about commands are made. -/

namespace Sys2Proof.Machine

/-! ### Byte memories -/

/-- The four images and the data memory stand in their canonical form. -/
def State.memoriesWf (s : State) : Prop :=
  s.image.live.wf ∧ s.image.held.wf ∧ s.image.staging.wf ∧ s.image.active.wf ∧ s.areas.memory.wf

/-! ### Addressing: no event meets a region or an area outside its memory -/

/-- The areas lie one after another from the start of the data memory, each a whole number of 64-byte units, and end
inside it; the oldest position of an area that has room lies in it (R129, R132). -/
def State.layoutLawful (s : State) : Prop :=
  (s.areaAt 0).start = 0 ∧
  (s.areaAt 1).start = (s.areaAt 0).start + (s.areaAt 0).size ∧
  (s.areaAt 2).start = (s.areaAt 1).start + (s.areaAt 1).size ∧
  (s.areaAt 3).start = (s.areaAt 2).start + (s.areaAt 2).size ∧
  (s.areaAt 3).start + (s.areaAt 3).size ≤ 4096 ∧
  (∀ a, (s.areaAt a).size % 64 = 0) ∧
  (∀ a, (s.areaAt a).size ≠ 0 → (s.areaAt a).oldest < (s.areaAt a).size)

/-- The map of every module in service stays inside the image (R92), and the areas are lawful. -/
def State.addressingLawful (s : State) : Prop := s.regionsInside = true ∧ s.layoutLawful

/-! ### The notice unit -/

/-- The laws of the notice unit: at most 32 records (R172), at most 255 lost, overflow only at 255 (R173), at most 15
pulses owed (R177), NOTICE_WAITING pending exactly while a record waits (R175), bit 7 of the three sets 0 (R176, R178),
and INT asserted exactly while a pending kind is enabled (R176). -/
def NoticeUnit.lawful (n : NoticeUnit) : Prop :=
  n.queue.length ≤ 32 ∧ n.lostCount ≤ 255 ∧ (n.overflow = true → n.lostCount = 255) ∧ n.attnOwed ≤ 15 ∧
  (hasKind n.events .noticeWaiting = true ↔ n.queue ≠ []) ∧
  n.events.getLsbD 7 = false ∧ n.intEnable.getLsbD 7 = false ∧ n.attnEnable.getLsbD 7 = false ∧
  n.intLine = n.intLevel

/-! ### The line and the cycle -/

/-- The pair is driven in GAP and SENDING (Table 1-5). -/
def TxnPhase.drives : TxnPhase → Bool
  | .gap | .sending => true
  | .awaiting | .receiving | .settling => false

/-- What LTX carries in a phase: the request in SENDING, else the idle level (R4, R11). -/
def Txn.onLine (t : Txn) : LtxLevel := if t.phase = .sending then .frame (lineLevels t.sent) else .idle

/-- The pins while cycles may run: driven idle with no transaction, else by the transaction's phase (R4). -/
def LineEngine.driven (l : LineEngine) : Prop :=
  (l.txn = none → l.lde = true ∧ l.ltx = .idle) ∧
  ∀ t, l.txn = some t → l.lde = t.phase.drives ∧ l.ltx = t.onLine

/-- The law of the line: pins and transaction in flight by the link state (R4, R22, Table 2-1). -/
def State.lineLawful (s : State) : Prop :=
  (s.link.state = .off ∨ s.link.state = .fault → s.line.txn = none ∧ s.line.lde = false ∧ s.line.ltx = .idle) ∧
  (s.link.state = .checking ∨ s.link.state = .idle → s.line.txn = none ∧ s.line.lde = true ∧ s.line.ltx = .idle) ∧
  (s.link.state = .running → s.line.driven) ∧
  (s.link.state = .stopping → s.line.txn ≠ none ∧ s.line.driven)

/-- The law of the cycle: stage NONE and a stopped timer exactly while no cycle runs; in RUNNING a transaction in flight
in stage MARK and whenever the timer has expired, and none in stage REST (R40, R43, R49, R57, R63). -/
def State.cycleLawful (s : State) : Prop :=
  (s.link.state = .running ∨ s.link.state = .stopping → s.sched.stage ≠ .none ∧ s.sched.timer ≠ .stopped) ∧
  (s.link.state = .running → s.line.txn = none → s.sched.stage ≠ .mark ∧ s.sched.timer ≠ .expired) ∧
  (s.link.state = .running → s.sched.stage = .rest → s.line.txn = none) ∧
  (s.link.state ≠ .running → s.link.state ≠ .stopping → s.sched.stage = .none ∧ s.sched.timer = .stopped)

/-! ### Module records -/

/-- Holder, waiting list, cancel hold count, mismatch cause, age and refreshed mark agree with the state (R74, R82,
R83, R85, R88). -/
def ModuleRecord.lawful (m : ModuleRecord) : Prop :=
  (m.holder ≠ .none → m.state.inService = true) ∧
  (m.waiting ≠ [] → m.state.takesSlots = true) ∧
  (m.cancelHold ≠ 0 → m.holder.code = 2#8) ∧
  (m.mismatch ≠ .none ↔ m.state = .mismatch) ∧
  m.age ≤ 255 ∧
  (m.state.ages = false → m.age = 255) ∧
  (m.refreshed = true → m.state.ages = true)

/-- Every module record is lawful. -/
def State.modulesLawful (s : State) : Prop := ∀ k, (s.moduleAt k).lawful

/-- The failure count agrees with the state, for a threshold (R68). -/
def ModuleRecord.countLawful (threshold : Nat) (m : ModuleRecord) : Prop :=
  (m.state = .suspect → 1 ≤ m.failCount ∧ m.failCount < threshold) ∧
  (m.state = .lost → m.failCount = threshold) ∧
  (m.state ≠ .suspect → m.state ≠ .lost → m.failCount = 0)

/-- The states a module may be in while the link is OFF, CHECKING or FAULT (R37). -/
def ModuleState.quiet : ModuleState → Bool
  | .vacant | .expected | .disabled => true
  | .present | .suspect | .lost | .found | .mismatch => false

/-- OFF, CHECKING or FAULT. -/
def LinkState.modulesQuiet : LinkState → Bool
  | .off | .checking | .fault => true
  | .idle | .running | .stopping => false

/-- The threshold lies from 1 to 7 (Table 2-2), every failure count agrees with its module's state (R68), and no module
is in service, lost, found or mismatched while the link is OFF, CHECKING or FAULT (R37). -/
def State.countsLawful (s : State) : Prop :=
  1 ≤ s.link.threshold.toNat ∧ s.link.threshold.toNat ≤ 7 ∧
  (∀ k, (s.moduleAt k).countLawful s.link.threshold.toNat) ∧
  (s.link.state.modulesQuiet = true → ∀ k, (s.moduleAt k).state.quiet = true)

/-! ### Slots, holders, waiting lists, bindings and fills -/

/-- Does a slot hold its module: in OPENING, TRANSFERRING, CLOSING or ABORT_PENDING, or ABORTED with a recorded phase
(R82)? -/
def Slot.holds (x : Slot) : Bool :=
  match x.state with
  | .opening | .transferring | .closing | .abortPending => true
  | .aborted => x.run.recordedPhase != .none
  | .free | .queued | .done | .failed => false

/-- A module's holder is SLOT n exactly when slot n names the module and holds it (R82). -/
def State.holdersAgree (s : State) : Prop :=
  ∀ k n, (s.moduleAt k).holder = .slot n ↔ (s.slotAt n).holds = true ∧ (s.slotAt n).module = some k

/-- A waiting list holds no number twice, and exactly the slots that are QUEUED for its module (R83). -/
def State.waitingAgrees (s : State) : Prop :=
  ∀ k, (s.moduleAt k).waiting.Nodup ∧
    ∀ n, n ∈ (s.moduleAt k).waiting ↔ (s.slotAt n).state = .queued ∧ (s.slotAt n).module = some k

/-- An area is bound to a slot exactly when the slot is not FREE, is of kind WRITE or READ and names the area, and it is
bound in the slot's direction (R136). -/
def State.bindingsAgree (s : State) : Prop :=
  ∀ a n d, (s.areaAt a).binding = some { slot := n, direction := d } ↔
    (s.slotAt n).state ≠ .free ∧ (s.slotAt n).host.area = a ∧ (s.slotAt n).host.direction = some d

/-- Fill is at most size in every area (R139). -/
def State.fillsInside (s : State) : Prop := ∀ a, (s.areaAt a).fill ≤ (s.areaAt a).size

/-- A slot's own laws: its host fields are usable out of FREE (R117), the recorded phase equals the state in a phase, is
NONE in FREE and QUEUED and not NONE in ABORT_PENDING (R112), nothing has moved before TRANSFERRING and bytes are still
to move in it (R143, R144). -/
def Slot.lawful (x : Slot) : Prop :=
  (x.state ≠ .free → x.host.usable = true) ∧
  (x.state.inPhase = true → x.run.recordedPhase = x.state.phase) ∧
  (x.state = .free ∨ x.state = .queued → x.run.recordedPhase = .none) ∧
  (x.state = .abortPending → x.run.recordedPhase ≠ .none) ∧
  (x.run.recordedPhase = .none ∨ x.run.recordedPhase = .opening → x.run.bytesMoved = 0) ∧
  (x.holds = true → x.run.recordedPhase = .transferring → x.run.bytesMoved < x.host.declared.toNat)

/-- The kind of the line request that a slot's request in flight is (R141, R142). -/
def SlotRequest.kind : SlotRequest → RequestKind
  | .openExchange => .openExchange
  | .put _ _ => .put
  | .fetch _ _ => .fetch
  | .close => .close

/-- A request in flight fits its slot: it is the request of the recorded phase, and its piece lies in what is still to
move and in what its area holds or has room for (R137, R138, R142, R144). -/
def SlotRequest.fits (q : SlotRequest) (x : Slot) (r : AreaRecord) : Prop :=
  match q with
  | .openExchange => x.run.recordedPhase = .opening
  | .put e _ => x.run.recordedPhase = .transferring ∧ x.host.direction = some .write ∧
      x.run.bytesMoved + e ≤ x.host.declared.toNat ∧ e ≤ r.fill
  | .fetch e _ => x.run.recordedPhase = .transferring ∧ x.host.direction = some .read ∧
      x.run.bytesMoved + e ≤ x.host.declared.toNat ∧ r.fill + e ≤ r.size
  | .close => x.run.recordedPhase = .closing

/-- A slot with a request in flight is in a phase or in ABORT_PENDING, the request fits it, and the transaction in flight
is its own (R141, R146). -/
def State.requestsAgree (s : State) : Prop :=
  ∀ n q, (s.slotAt n).inFlight = some q →
    (s.slotAt n).takesOutcome = true ∧ q.fits (s.slotAt n) (s.areaAt (s.slotAt n).host.area) ∧
    s.sched.forSlot = some n ∧
    ∃ t, s.line.txn = some t ∧ t.kind = q.kind ∧ (s.slotAt n).module = moduleIndex t.address

/-- Slots, module table, areas and the transaction in flight agree: the holder law (R82), the waiting-list law (R83), the
binding law (R136), the fill law (R139), the slots' own laws, and a request in flight for every slot in ABORT_PENDING
(R162). -/
def State.exchangesLawful (s : State) : Prop :=
  s.holdersAgree ∧ s.waitingAgrees ∧ s.bindingsAgree ∧ s.fillsInside ∧ (∀ n, (s.slotAt n).lawful) ∧
  s.requestsAgree ∧ ∀ n, (s.slotAt n).state = .abortPending → (s.slotAt n).inFlight ≠ none

/-! ### The two courses of a host access -/

/-- A command answered: the code and the result stand in the unit's registers, INDEX stays at COMMAND and the read
latch is empty; nothing else than what `s` already holds (R181, R182, R183). -/
def answered (u : UnitId) (code : Byte) (r : ResultCode) (s : State) : State :=
  { s with window := { s.window with
      commands := s.window.commands.set u.number code
      results := s.window.results.set u.number r
      latch := none } }

/-- A DATA access closed at an index of a register map from 02h on: INDEX one further, the read latch empty (R181,
R182). -/
def stepped (s : State) : State := { s with window := { s.window with index := s.window.index + 1#8, latch := none } }

/-- UNIT and INDEX select a register, with PRST# not asserted. -/
def State.atReg (s : State) (r : Reg) : Prop := s.window.prst = false ∧ s.selection = .reg r

/-- The window error record after an error at the access under way (R184). -/
def WindowError.after (c : WindowCause) (unit index : Byte) (e : WindowError) : WindowError :=
  if e.cause = .none then { cause := c, unit := unit, index := index, more := false } else { e with more := true }

/-- A write refused with a window error: the record, WINDOW_ERROR, and nothing else (R184). -/
def erred (c : WindowCause) (s : State) : State :=
  { s with
    window := { s.window with error := s.window.error.after c s.window.unit s.window.index }
    notices := s.notices.raise .windowError }

/-- What a unit's register at an index reads as, where the unit has one there (R181, R188). -/
def State.byteAt (s : State) (u : UnitId) (i : Nat) : Option Byte := (regAt u i).map (regValue s)

/-! ### Notices in order -/

/-- Notices offered one after the other while the cycle counter stands (R172, R173). -/
def NoticeUnit.offerAll (cycle : Half) (bodies : List NoticeBody) (n : NoticeUnit) : NoticeUnit :=
  bodies.foldl (fun q b => q.offer cycle b) n

/-- The slot ends among the eight slots, in slot-number order. -/
def slotEnds (body : Fin 8 → Option NoticeBody) : List NoticeBody := [0, 1, 2, 3, 4, 5, 6, 7].filterMap body

/-! ### What stays -/

/-- Every slot but `n` is as before. -/
def otherSlotsKept (n : Fin 8) (s t : State) : Prop := ∀ j, j ≠ n → t.slotAt j = s.slotAt j

/-- Every module record but `k`'s is as before. -/
def otherModulesKept (k : Fin 30) (s t : State) : Prop := ∀ j, j ≠ k → t.moduleAt j = s.moduleAt j

/-- Every area but `a` is as before. -/
def otherAreasKept (a : Fin 4) (s t : State) : Prop := ∀ b, b ≠ a → t.areaAt b = s.areaAt b

/-- The MARK of a cycle, just started (R43, R10). -/
def markTxn (cycle : Half) (outputsValid : Bool) : Txn where
  kind := .mark
  address := 31
  payload := [loByte cycle, if outputsValid then 1#8 else 0#8]
  seqBit := false
  allowed := []
  exactLength := none
  phase := .gap
  received := []
  settling := none

end Sys2Proof.Machine
end

