-- ==== Sys2Proof/Certificates/Slice0/Obligations.lean ====
section
/-! DEFINITION. The statements for the provers, from the numbered rules of spec/. -/

open Sys2Proof Sys2Proof.Machine

/-! ### The queue of commands -/

/-- A step takes the command at the front of the queue and is `exec` of it on the state with the queue's rest. With no
command waiting it takes the decision of the scheduler that an end of transaction has left due, and else idles (the
model's choice, log entries 1 and 20). -/
def Obligations.StepTakesFrontCommand : Prop :=
  (∀ (c : Instr) (rest : List Instr) (s : State), s.pending = c :: rest → step s = exec c { s with pending := rest }) ∧
  (∀ s : State, s.pending = [] →
    let due := s.link.state = .running ∧ s.line.txn = none ∧
      (s.sched.stage = .scan ∨ s.sched.stage = .acyclic ∨ s.sched.stage = .probe)
    (¬ due → step s = .next s) ∧
    (due → s.regionsInside = true → s.areasInside = true → step s = .next (nextDecision s)))

/-- No command changes the queue. -/
def Obligations.CommandsLeaveQueue : Prop :=
  ∀ (c : Instr) (s t : State), exec c s = .next t → t.pending = s.pending

/-! ### Resets -/

/-- Scheduler, image unit and notice unit at power-on reset and at platform reset: the scheduler's state with no cycle
end, notice or event and no transaction in flight (R64), the image unit's with its images all 00h (R108), and the notice
unit alike at both (R179). -/
def Obligations.CycleImageAndNoticeResets : Prop :=
  (∀ s : State, ∃ p q : State, exec .powerOnReset s = .next p ∧ exec .platformReset s = .next q ∧
    p.sched.cycleLength = 1250#16 ∧ q.sched.cycleLength = s.sched.cycleLength ∧
    p.sched.scanLength = 0#8 ∧ q.sched.scanLength = s.sched.scanLength ∧
    p.sched.scanEntries = Vector.replicate 32 0#8 ∧ q.sched.scanEntries = s.sched.scanEntries ∧
    p.sched.searchVacant = false ∧ q.sched.searchVacant = s.sched.searchVacant ∧
    ∀ t, (t = p ∨ t = q) →
      t.sched.timer = .stopped ∧ t.sched.cycleCounter = 0#16 ∧ t.sched.stage = .none ∧ t.sched.scanPos = 0 ∧
      t.sched.rrPtr = 7 ∧ moduleAddress t.sched.probePtr = 30 ∧ t.sched.cancelDeferred = [] ∧
      t.sched.lateStart = false ∧
      t.sched.record = { number := 0#16, scanned := 0, cut := 0, status := .none, late := false } ∧
      t.notices.queue = [] ∧ t.notices.events = 0#8 ∧ t.line.txn = none) ∧
  (∀ s : State, ∃ p q : State, exec .powerOnReset s = .next p ∧ exec .platformReset s = .next q ∧
    p.image.follow = true ∧ q.image.follow = s.image.follow ∧
    p.image.deadline = 0#8 ∧ q.image.deadline = s.image.deadline ∧
    ∀ t, (t = p ∨ t = q) →
      (∀ a, t.image.live.read a = 0#8 ∧ t.image.held.read a = 0#8 ∧ t.image.staging.read a = 0#8 ∧
        t.image.active.read a = 0#8) ∧
      (∀ k : Fin 30, t.image.heldAges[k] = 0) ∧ t.image.heldCycle = 0#16 ∧ t.image.freeze = false ∧
      t.image.snapshotPending = false ∧ t.image.commitPending = false ∧ t.image.outputsValid = false ∧
      t.image.supervision = 0 ∧ t.image.select = 0 ∧ t.image.page = 0 ∧
      t.notices.queue = [] ∧ t.notices.events = 0#8) ∧
  (∀ s : State, ∃ p q : State, exec .powerOnReset s = .next p ∧ exec .platformReset s = .next q ∧
    ∀ t, (t = p ∨ t = q) → t.notices =
      { queue := [], lostCount := 0, overflow := false, events := 0#8, intEnable := 0#8, attnEnable := 0#8,
        intLine := false, attnLine := false, attnOwed := 0 })

/-- Module table, slots and areas at power-on reset and at platform reset: every module record (R90), every slot with
the two limits, the holders, lists and bindings (R128), and the area unit, which stands apart from the link-down step
and STOP (R140). -/
def Obligations.ModuleSlotAndAreaResets : Prop :=
  (∀ s : State, ∃ p q : State, exec .powerOnReset s = .next p ∧ exec .platformReset s = .next q ∧
    moduleAddress p.table.subject = 1 ∧ moduleAddress q.table.subject = 1 ∧
    (∀ k, p.moduleAt k =
      { state := .vacant, expectedType := 0#16, inOffset := 0#16, inLength := 0#8, outOffset := 0#16, outLength := 0#8,
        watchMask := 0#8, wasConfigured := false, repType := 0#16, repIn := 0#8, repOut := 0#8, repMax := 0#8,
        mismatch := .none, failCount := 0, holder := .none, cancelHold := 0, waiting := [], status := 0#8, age := 255,
        refreshed := false }) ∧
    (∀ k, q.moduleAt k =
      { s.moduleAt k with
        state := (match (s.moduleAt k).state with
          | .present => .expected | .suspect => .expected | .lost => .expected | .mismatch => .expected
          | .found => .vacant | .vacant => .vacant | .expected => .expected | .disabled => .disabled)
        repType := 0#16, repIn := 0#8, repOut := 0#8, repMax := 0#8, mismatch := .none, failCount := 0,
        holder := .none, cancelHold := 0, waiting := [], status := 0#8, age := 255, refreshed := false }) ∧
    ∀ t, (t = p ∨ t = q) → t.notices.queue = [] ∧ ∀ n, (t.slotAt n).state = .free) ∧
  (∀ s : State, ∃ p q : State, exec .powerOnReset s = .next p ∧ exec .platformReset s = .next q ∧
    p.exch.retryLimit = 3#8 ∧ p.exch.holdLimit = 64#8 ∧
    q.exch.retryLimit = s.exch.retryLimit ∧ q.exch.holdLimit = s.exch.holdLimit ∧
    ∀ t, (t = p ∨ t = q) →
      t.exch.subject = 0 ∧
      (∀ n, t.slotAt n =
        { host := { moduleAddr := 0#8, kind := 0#8, tag := 0#16, declared := 0#16, area := 0, pieceLimit := 64#8,
                    blockLength := 0#8, block := Vector.replicate 16 0#8 }
          state := .free
          run := { recordedPhase := .none, bytesMoved := 0, errCount := 0, lastError := .none, holdCount := 0,
                   putSeq := false, fetchSeq := false, waitArea := false, deferred := false, short := false,
                   abortRequested := false, condition := .none, refuseReason := 0#8, resultCode := 0#8,
                   residue := 0#16, detail := 0#16 }
          inFlight := none }) ∧
      (∀ k, (t.moduleAt k).holder = .none ∧ (t.moduleAt k).waiting = []) ∧
      (∀ a, (t.areaAt a).binding = none) ∧ t.line.txn = none ∧ t.notices.queue = []) ∧
  ((∀ s : State, ∃ p q : State, exec .powerOnReset s = .next p ∧ exec .platformReset s = .next q ∧
    (∀ a : Fin 4, p.areaAt a = { size := 1024, start := 1024 * a.val, fill := 0, oldest := 0, binding := none }) ∧
    (∀ a : Fin 4, p.areas.staged[a] = 16#8) ∧
    (∀ a : Fin 4, q.areaAt a = { s.areaAt a with fill := 0, oldest := 0, binding := none }) ∧
    q.areas.staged = s.areas.staged ∧
    ∀ t, (t = p ∨ t = q) → t.areas.subject = 0 ∧ ∀ n, (t.slotAt n).state = .free) ∧
  (∀ (c : Condition) (s : State), (linkDownStep c s).areas = s.areas) ∧
  (∀ s : State, (stopDone s).areas = s.areas))

/-- The link controller, the line engine and the register window at the two resets (R2, R4, R9, R19, R22, R24, R38,
R180, R182, R183, R184, R185); that PRST# is not asserted after power-on reset is the model's choice (log entry 5). -/
def Obligations.LinkLineAndWindowAtResets : Prop :=
  ∀ s : State, ∃ p q : State, exec .powerOnReset s = .next p ∧ exec .platformReset s = .next q ∧
    p.link.bitRate = 1#8 ∧ p.link.replyWindow = 40#8 ∧ p.link.threshold = 3#8 ∧
    q.link.bitRate = s.link.bitRate ∧ q.link.replyWindow = s.link.replyWindow ∧ q.link.threshold = s.link.threshold ∧
    p.line.bitRate = 1#8 ∧ p.line.replyWindow = 40#8 ∧
    q.line.bitRate = s.link.bitRate ∧ q.line.replyWindow = s.link.replyWindow ∧
    p.window.resetCause = .power ∧ q.window.resetCause = .platform ∧ p.window.prst = false ∧ q.window.prst = true ∧
    ∀ t, (t = p ∨ t = q) →
      t.link.state = .off ∧ t.link.lastOld = .off ∧ t.link.lastNew = .off ∧ t.link.lastCause = .none ∧
      t.line.txn = none ∧ t.line.echoFaults = 0 ∧ t.line.lde = false ∧ t.line.ltx = .idle ∧
      t.window.unit = 0#8 ∧ t.window.index = 0#8 ∧ t.window.latch = none ∧
      (∀ u : Fin 8, t.window.commands[u] = 0#8 ∧ t.window.results[u] = .none) ∧
      t.window.error = { cause := .none, unit := 0#8, index := 0#8, more := false } ∧ t.pending = s.pending

/-- While PRST# is asserted the part holds its platform-reset values, every port reads 00h, and no command but the two
that move the reset changes anything; its release leaves the part as it stands (R186). That the byte last returned to
the host is 00h at the reset, before any read, is the model's choice (log entry 4). -/
def Obligations.PlatformResetHoldsThePart : Prop :=
  ∀ s : State, ∃ q r : State, exec .platformReset s = .next q ∧ q.window.prst = true ∧
    unitPort q = 0#8 ∧ indexPort q = 0#8 ∧ summaryPort q = 0#8 ∧ q.window.dataOut = 0#8 ∧
    (∀ c, c ≠ .powerOnReset → c ≠ .platformResetRelease → exec c q = .next q) ∧
    exec .platformResetRelease q = .next r ∧ r = { q with window := { q.window with prst := false } } ∧
    r.window.unit = 0#8 ∧ r.window.index = 0#8 ∧ r.window.error.cause = .none ∧ r.window.error.more = false ∧
    (∀ u : Fin 8, r.window.commands[u] = 0#8 ∧ r.window.results[u] = .none) ∧ r.window.latch = none ∧
    r.window.resetCause = .platform

/-! ### The register window -/

/-- Writes to the UNIT and INDEX ports keep the byte and touch nothing else but the read latch, and the ports read as
held. A DATA access with no unit or no register selected: the window error, 00h on a read, INDEX one further, the latch
empty, and nothing else (R180, R181, R182, R184). -/
def Obligations.PortsAndEmptySelections : Prop :=
  ∀ (v : Byte) (s : State), s.window.prst = false →
    exec (.unitWrite v) s = .next { s with window := { s.window with unit := v, latch := none } } ∧
    exec (.indexWrite v) s = .next { s with window := { s.window with index := v } } ∧
    unitPort s = s.window.unit ∧ indexPort s = s.window.index ∧
    (8 ≤ s.window.unit.toNat →
      exec (.noUnitAccess (.write v)) s = .next (stepped (erred .noUnit s)) ∧
      exec (.noUnitAccess .read) s = .next ((stepped (erred .noUnit s)).returns 0#8)) ∧
    (s.selection = .noIndex →
      exec (.noIndexAccess (.write v)) s = .next (stepped (erred .noIndex s)) ∧
      exec (.noIndexAccess .read) s = .next ((stepped (erred .noIndex s)).returns 0#8))

/-- REGISTER_WRITE: a read-only register refuses the byte with READ_ONLY, RESULT without moving INDEX; SUBJECT takes a
number in its unit's range and ignores any other; image select keeps two bits and page four (R66, R106, R109, R132,
R181). -/
def Obligations.RegisterWritesTakenOrRefused : Prop :=
  ∀ (v : Byte) (s : State),
    (∀ u, s.atReg (.result u) →
      exec (.registerWrite v) s =
        .next { erred .readOnly s with window := { (erred .readOnly s).window with latch := none } }) ∧
    (∀ r, s.atReg r → r.writeClass s.image.select = .readOnly → (∀ u, r ≠ .result u) →
      exec (.registerWrite v) s = .next (stepped (erred .readOnly s))) ∧
    (s.atReg (.subject .modules) →
      (∀ k : Fin 30, v.toNat = moduleAddress k →
        exec (.registerWrite v) s = .next (stepped { s with table := { s.table with subject := k } })) ∧
      (v.toNat = 0 ∨ 30 < v.toNat → exec (.registerWrite v) s = .next (stepped s))) ∧
    (s.atReg (.subject .slots) →
      (∀ n : Fin 8, v.toNat = n.val →
        exec (.registerWrite v) s = .next (stepped { s with exch := { s.exch with subject := n } })) ∧
      (7 < v.toNat → exec (.registerWrite v) s = .next (stepped s))) ∧
    (s.atReg (.subject .areas) →
      (∀ a : Fin 4, v.toNat = a.val →
        exec (.registerWrite v) s = .next (stepped { s with areas := { s.areas with subject := a } })) ∧
      (3 < v.toNat → exec (.registerWrite v) s = .next (stepped s))) ∧
    (s.atReg (.byte .imageSelect) → ∀ i : Fin 4, v.toNat % 4 = i.val →
      exec (.registerWrite v) s = .next (stepped { s with image := { s.image with select := i } })) ∧
    (s.atReg (.byte .page) → ∀ p : Fin 16, v.toNat % 16 = p.val →
      exec (.registerWrite v) s = .next (stepped { s with image := { s.image with page := p } }))

/-- REGISTER_READ of a register of one byte: its value, the latch empty, INDEX one further but at COMMAND and RESULT,
and nothing else. A 16-bit field whose low byte and then high byte are read comes as one value, whatever happened to
the field between; a high byte read with the latch empty comes as it stands (R181, R182). -/
def Obligations.RegisterReadsReturnTheField : Prop :=
  (∀ (r : Reg) (s : State), s.atReg r → (∀ f, r ≠ .lo f) → (∀ f, r ≠ .hi f) → r ≠ .dataPort →
    exec .registerRead s = .next { s with window := { s.window with
      dataOut := regValue s r
      latch := none
      index := if s.window.index = 0#8 ∨ s.window.index = 1#8 then s.window.index else s.window.index + 1#8 } }) ∧
  (∀ (f : Field16) (s : State), s.atReg (.lo f) → ∃ t : State, exec .lowByteRead s = .next t ∧
    t = { s with window := { s.window with
      dataOut := loByte (fieldValue s f)
      latch := some { unit := s.window.unit, index := s.window.index + 1#8, value := hiByte (fieldValue s f) }
      index := s.window.index + 1#8 } } ∧
    t.atReg (.hi f) ∧
    ∀ u : State, u.window = t.window →
      exec .registerRead u = .next (stepped (u.returns (hiByte (fieldValue s f))))) ∧
  (∀ (f : Field16) (s : State), s.atReg (.hi f) → s.window.latch = none →
    exec .registerRead s = .next (stepped (s.returns (hiByte (fieldValue s f)))))

/-- Every DATA access is taken as the row that UNIT and INDEX select, leaves UNIT, and moves INDEX by the rule: on by
1 with wrap-around but at COMMAND and RESULT of a unit and at the data port of AREAS. The rows: NO_UNIT_ACCESS and
NO_INDEX_ACCESS where no unit or no register is selected; a read is LOW_BYTE_READ at the low byte of a 16-bit field,
DATA_PORT_READ at the data port and else REGISTER_READ; a write, but at COMMAND (ShortCommandsAnswered), is the row of
the register's own rule where it has one, and else REGISTER_WRITE (R23, R39, R44, R56, R66, R95, R99, R104, R106,
R110, R115, R130, R133, R134, R175, R176, R180, R181, R182, R188). -/
def Obligations.EveryDataAccessMovesIndex : Prop :=
  (∀ (v : Byte) (s : State), s.window.prst = false → s.areasInside = true →
    ∃ t u : State, exec (dataWriteRow s v) s = .next t ∧ exec (dataReadRow s) s = .next u ∧
      t.window.unit = s.window.unit ∧ u.window.unit = s.window.unit ∧
      t.window.latch = none ∧
      (∀ x, (x = t ∨ x = u) → x.window.index =
        if (s.window.unit.toNat < 8 ∧ (s.window.index = 0#8 ∨ s.window.index = 1#8)) ∨
           (s.window.unit = 6#8 ∧ s.window.index = 8#8)
        then s.window.index else s.window.index + 1#8)) ∧
  (∀ (v : Byte) (s : State), unitOf s.window.unit = none →
    dataWriteRow s v = .noUnitAccess (.write v) ∧ dataReadRow s = .noUnitAccess .read) ∧
  (∀ (u : UnitId) (v : Byte) (s : State), unitOf s.window.unit = some u →
    let i := s.window.index.toNat
    let span := fun a b : Nat => decide (a ≤ i ∧ i ≤ b)
    let lowByte := match u with
      | .global => i == 4
      | .link => false
      | .cycle => i == 4 || i == 6 || i == 0xC
      | .modules => i == 6 || i == 8 || i == 0xB || i == 0x10 || i == 0x18
      | .image => i == 0xE
      | .slots => i == 0xA || i == 0xC || i == 0x32 || i == 0x3D || i == 0x3F
      | .areas => i == 0xA || i == 0xC || i == 0xE || i == 0x10 || i == 0x12
      | .notices => i == 0xA
    let write : Instr := match u with
      | .global => if i = 9 then .clearingRegisterWrite v else if i = 0xA then .intEnableWrite v
        else if i = 0xB then .attnEnableWrite v else .registerWrite v
      | .link => if span 5 7 then .linkConfigWrite v else .registerWrite v
      | .cycle => if span 4 5 then .cycleLengthWrite v else if i = 9 then .searchVacantWrite v
        else if i = 0x20 ∨ span 0x40 0x5F then .scanListWrite v else .registerWrite v
      | .modules => if span 6 0xE then .moduleFieldWrite v else .registerWrite v
      | .image => if i = 6 then .followWrite v else if i = 0xC then .commitDeadlineWrite v
        else if span 0x40 0x7F ∧ s.image.select = 2 then .stagingWrite v else .registerWrite v
      | .slots => if span 4 5 then .exchangeLimitWrite v
        else if span 8 0x10 ∨ span 0x20 0x2F then .slotFieldWrite v else .registerWrite v
      | .areas => if span 4 7 then .stagedSizeWrite v else if i = 8 then .dataPortWrite v else .registerWrite v
      | .notices => .registerWrite v
    (regAt u i = none → dataWriteRow s v = .noIndexAccess (.write v) ∧ dataReadRow s = .noIndexAccess .read) ∧
    (regAt u i ≠ none →
      (i ≠ 0 → dataWriteRow s v = write) ∧
      dataReadRow s = if lowByte = true then .lowByteRead
        else if u = .areas ∧ i = 8 then .dataPortRead else .registerRead))

/-- The four ports by A1 and A0, what a read of each but DATA returns and which row an access at each is; a write to
SUMMARY is none. The unit numbers. The indexes at which each unit has a register, and those that are read-only, an image
byte being writable with image select 2 alone (R106, R178, R180, R181, R186, R188, Tables 11-1, 11-2, 11-4 to 11-6). -/
def Obligations.PortsRegistersAndMarks : Prop :=
  portAt false false = .unit ∧ portAt false true = .index ∧ portAt true false = .data ∧ portAt true true = .summary ∧
  (∀ (v : Byte) (s : State),
    Port.value s .unit = some (if s.window.prst then 0#8 else s.window.unit) ∧
    Port.value s .index = some (if s.window.prst then 0#8 else s.window.index) ∧
    Port.value s .summary = some (if s.window.prst then 0#8 else s.notices.events &&& 0x7F#8) ∧
    Port.value s .data = none ∧ portReadRow .data s = some (dataReadRow s) ∧
    (∀ p, p ≠ .data → portReadRow p s = none) ∧
    portWriteRow .unit s v = some (.unitWrite v) ∧ portWriteRow .index s v = some (.indexWrite v) ∧
    portWriteRow .data s v = some (dataWriteRow s v) ∧ portWriteRow .summary s v = none) ∧
  [0#8, 1#8, 2#8, 3#8, 4#8, 5#8, 6#8, 7#8].map unitOf =
    [some .global, some .link, some .cycle, some .modules, some .image, some .slots, some .areas, some .notices] ∧
  (∀ u : Byte, 8 ≤ u.toNat → unitOf u = none) ∧
  (∀ (u : UnitId) (i : Nat),
    let span := fun a b : Nat => decide (a ≤ i ∧ i ≤ b)
    let always := span 0 1
    let present := match u with
      | .global => always || span 4 0xF
      | .link => always || span 4 0xB
      | .cycle => always || span 4 0x11 || span 0x20 0x20 || span 0x40 0x5F
      | .modules => always || span 2 2 || span 4 0x1D || span 0x20 0x27
      | .image => always || span 4 0xC || span 0xE 0xF || span 0x20 0x3D || span 0x40 0x7F
      | .slots => always || span 2 2 || span 4 5 || span 8 0x10 || span 0x20 0x41
      | .areas => always || span 2 2 || span 4 8 || span 0xA 0x15
      | .notices => always || span 4 6 || span 8 0x13
    let marked := match u with
      | .global => span 4 8 || span 0xC 0xF
      | .link => span 4 4 || span 8 0xB
      | .cycle => span 6 8 || span 0xA 0x11
      | .modules => span 4 5 || span 0xF 0x1D || span 0x20 0x27
      | .image => span 7 0xB || span 0xE 0xF || span 0x20 0x3D
      | .slots => span 0x30 0x41
      | .areas => span 0xA 0x15
      | .notices => span 4 6 || span 8 0x13
    (regAt u i).isSome = present ∧
    ∀ select : Fin 4, ((regAt u i).map (Reg.writeClass select) = some .readOnly ↔
      i = 1 ∨ marked = true ∨ (u = .image ∧ 0x40 ≤ i ∧ i ≤ 0x7F ∧ select ≠ 2)))

/-- What every register reads as, unit by unit and index by index, with the value codes, the bits of the event sets and
of the slot flags, and the fields of the notice at the head of the queue (R171, R182, R185, R188, Tables 11-4 to
11-8). -/
def Obligations.RegisterValuesAndCodes : Prop :=
  (∀ s : State,
    let m := s.selModule
    let x := s.selSlot
    let r := s.selArea
    let i := s.image
    let flag := fun b : Bool => if b then 1#8 else 0#8
    let num := fun n : Nat => BitVec.ofNat 8 n
    let wide := fun n : Nat => BitVec.ofNat 16 n
    (∀ e ∈ [(UnitId.global, 0x06, 0x01#8), (.global, 0x07, s.window.resetCause.code), (.global, 0x08, s.notices.events),
        (.global, 0x09, 0#8), (.global, 0x0A, s.notices.intEnable), (.global, 0x0B, s.notices.attnEnable),
        (.global, 0x0C, s.window.error.cause.code), (.global, 0x0D, s.window.error.unit),
        (.global, 0x0E, s.window.error.index), (.global, 0x0F, flag s.window.error.more),
        (.link, 0x04, s.link.state.code), (.link, 0x05, s.link.bitRate), (.link, 0x06, s.link.replyWindow),
        (.link, 0x07, s.link.threshold), (.link, 0x08, s.link.lastOld.code), (.link, 0x09, s.link.lastNew.code),
        (.link, 0x0A, s.link.lastCause.code), (.link, 0x0B, num s.line.echoFaults),
        (.cycle, 0x08, s.sched.stage.code), (.cycle, 0x09, flag s.sched.searchVacant),
        (.cycle, 0x0A, num s.sched.rrPtr), (.cycle, 0x0B, num (moduleAddress s.sched.probePtr)),
        (.cycle, 0x0E, num s.sched.record.scanned), (.cycle, 0x0F, num s.sched.record.cut),
        (.cycle, 0x10, s.sched.record.status.code), (.cycle, 0x11, flag s.sched.record.late),
        (.cycle, 0x20, s.sched.scanLength)], s.byteAt e.1 e.2.1 = some e.2.2) ∧
    (∀ e ∈ [(UnitId.modules, 0x02, num (moduleAddress s.table.subject)), (.modules, 0x04, m.state.code),
        (.modules, 0x05, m.mismatch.code), (.modules, 0x0A, m.inLength), (.modules, 0x0D, m.outLength),
        (.modules, 0x0E, m.watchMask), (.modules, 0x0F, flag m.wasConfigured), (.modules, 0x12, m.repIn),
        (.modules, 0x13, m.repOut), (.modules, 0x14, m.repMax), (.modules, 0x15, num m.failCount),
        (.modules, 0x16, m.holder.code),
        (.modules, 0x17, match m.holder with | .slot n => num n | .none => 0#8 | .cancelPending _ => 0#8),
        (.modules, 0x1A, num m.cancelHold), (.modules, 0x1B, m.status), (.modules, 0x1C, num m.age),
        (.modules, 0x1D, num m.waiting.length),
        (.image, 0x04, num i.select), (.image, 0x05, num i.page), (.image, 0x06, flag i.follow),
        (.image, 0x07, flag i.freeze), (.image, 0x08, flag i.snapshotPending), (.image, 0x09, flag i.commitPending),
        (.image, 0x0A, flag i.outputsValid), (.image, 0x0B, num i.supervision), (.image, 0x0C, i.deadline)],
      s.byteAt e.1 e.2.1 = some e.2.2) ∧
    (∀ e ∈ [(UnitId.slots, 0x02, num s.exch.subject), (.slots, 0x04, s.exch.retryLimit),
        (.slots, 0x05, s.exch.holdLimit), (.slots, 0x08, x.host.moduleAddr), (.slots, 0x09, x.host.kind),
        (.slots, 0x0E, num x.host.area), (.slots, 0x0F, x.host.pieceLimit), (.slots, 0x10, x.host.blockLength),
        (.slots, 0x30, x.state.code), (.slots, 0x31, x.run.recordedPhase.code), (.slots, 0x34, num x.run.errCount),
        (.slots, 0x35, x.run.lastError.code), (.slots, 0x36, num x.run.holdCount), (.slots, 0x37, flag x.run.putSeq),
        (.slots, 0x38, flag x.run.fetchSeq),
        (.slots, 0x39, (if x.run.waitArea then 1#8 else 0#8) ||| (if x.run.deferred then 2#8 else 0#8) |||
          (if x.run.short then 4#8 else 0#8) ||| (if x.run.abortRequested then 8#8 else 0#8)),
        (.slots, 0x3A, x.run.condition.code), (.slots, 0x3B, x.run.refuseReason), (.slots, 0x3C, x.run.resultCode),
        (.slots, 0x41, match x.inFlight with | none => 0#8 | some q => q.code),
        (.areas, 0x02, num s.areas.subject), (.areas, 0x04, s.areas.staged[(0 : Fin 4)]),
        (.areas, 0x05, s.areas.staged[(1 : Fin 4)]), (.areas, 0x06, s.areas.staged[(2 : Fin 4)]),
        (.areas, 0x07, s.areas.staged[(3 : Fin 4)]),
        (.areas, 0x14, match r.binding with
          | none => 0#8
          | some b => if b.direction = .write then 1#8 else 2#8),
        (.areas, 0x15, match r.binding with | none => 0#8 | some b => num b.slot),
        (.notices, 0x04, num s.notices.queue.length), (.notices, 0x05, num s.notices.lostCount),
        (.notices, 0x06, flag s.notices.overflow)], s.byteAt e.1 e.2.1 = some e.2.2) ∧
    (∀ e ∈ [(UnitId.global, 0x04, 0x3008#16), (.cycle, 0x04, s.sched.cycleLength), (.cycle, 0x06, s.sched.cycleCounter),
        (.cycle, 0x0C, s.sched.record.number), (.modules, 0x06, m.expectedType), (.modules, 0x08, m.inOffset),
        (.modules, 0x0B, m.outOffset), (.modules, 0x10, m.repType),
        (.modules, 0x18, match m.holder with | .cancelPending tag => tag | .none => 0#16 | .slot _ => 0#16),
        (.image, 0x0E, i.heldCycle), (.slots, 0x0A, x.host.tag), (.slots, 0x0C, x.host.declared),
        (.slots, 0x32, wide x.run.bytesMoved), (.slots, 0x3D, x.run.residue), (.slots, 0x3F, x.run.detail),
        (.areas, 0x0A, wide r.size), (.areas, 0x0C, wide r.start), (.areas, 0x0E, wide r.fill),
        (.areas, 0x10, wide r.oldest), (.areas, 0x12, wide (r.size - r.fill))],
      s.byteAt e.1 e.2.1 = some (loByte e.2.2) ∧ s.byteAt e.1 (e.2.1 + 1) = some (hiByte e.2.2)) ∧
    (∀ j : Fin 32, s.byteAt .cycle (0x40 + j) = some s.sched.scanEntries[j]) ∧
    (∀ j : Fin 8, s.byteAt .modules (0x20 + j) = some (match m.waiting[j.val]? with | some n => num n | none => 0#8)) ∧
    (∀ k : Fin 30, s.byteAt .image (0x20 + k) = some (num i.heldAges[k])) ∧
    (∀ j : Fin 64, s.byteAt .image (0x40 + j) = some ((if i.select = 0 then i.live else if i.select = 1 then i.held
      else if i.select = 2 then i.staging else i.active).read (64 * i.page + j))) ∧
    (∀ j : Fin 16, s.byteAt .slots (0x20 + j) = some x.host.block[j]) ∧
    (∀ u : UnitId, s.byteAt u 0 = some s.window.commands[u.number] ∧
      s.byteAt u 1 = some (s.window.results[u.number]).code) ∧
    (s.notices.queue = [] → ∀ j, 8 ≤ j → j ≤ 0x13 → s.byteAt .notices j = some 0#8) ∧
    (∀ h rest, s.notices.queue = h :: rest →
      s.byteAt .notices 8 = some h.body.kindCode ∧ s.byteAt .notices 9 = some h.body.subject ∧
      s.byteAt .notices 0xA = some (loByte h.cycle) ∧ s.byteAt .notices 0xB = some (hiByte h.cycle) ∧
      ∀ j : Fin 8, s.byteAt .notices (0xC + j) = some (h.body.further.getD j 0#8))) ∧
  (∀ (n : Fin 8) (st : SlotState) (c : Condition) (ab : Bool) (k : Fin 30) (m1 m2 : ModuleState) (mc : ModuleCause)
    (o w : Byte) (cut : Nat) (l1 l2 : LinkState) (lc : LinkCause),
    [NoticeBody.slotEnded n st c ab, .moduleState k m1 m2 mc, .moduleStatus k o w, .cycleOverrun cut, .outputExpired w,
        .linkState l1 l2 lc].map (fun b => (b.kindCode, b.subject, b.further)) =
      [(1#8, BitVec.ofNat 8 n, [st.code, c.code, if ab then 1#8 else 0#8]),
        (2#8, BitVec.ofNat 8 (moduleAddress k), [m1.code, m2.code, mc.code]),
        (3#8, BitVec.ofNat 8 (moduleAddress k), [o, w]), (4#8, 0#8, [BitVec.ofNat 8 cut]), (5#8, 0#8, [w]),
        (6#8, 0#8, [l1.code, l2.code, lc.code])]) ∧
  [LinkState.off, .checking, .idle, .running, .stopping, .fault].map (fun c => c.code) = [0, 1, 2, 3, 4, 5] ∧
  [LinkCause.none, .command, .checkPassed, .lineHeld, .echoLimit, .stopDone].map (fun c => c.code) =
    [0, 1, 2, 3, 4, 5] ∧
  [CycleStage.none, .mark, .scan, .acyclic, .probe, .rest].map (fun c => c.code) = [0, 1, 2, 3, 4, 5] ∧
  [CycleStatus.none, .complete, .overrun, .stopped].map (fun c => c.code) = [0, 1, 2, 3] ∧
  [ModuleState.vacant, .expected, .present, .suspect, .lost, .found, .mismatch, .disabled].map (fun c => c.code) =
    [0, 1, 2, 3, 4, 5, 6, 7] ∧
  [MismatchCause.none, .format, .type, .length].map (fun c => c.code) = [0, 1, 2, 3] ∧
  [ModuleCause.identified, .returned, .answered, .mismatchFormat, .mismatchType, .mismatchLength, .failures,
    .cancelFailed].map (fun c => c.code) = [1, 2, 3, 4, 5, 6, 7, 8] ∧
  (∀ (n : Fin 8) (tag : Half), [Holder.none, .slot n, .cancelPending tag].map (fun c => c.code) = [0, 1, 2]) ∧
  [SlotState.free, .queued, .opening, .transferring, .closing, .abortPending, .aborted, .done,
    .failed].map (fun c => c.code) = [0, 1, 2, 3, 4, 5, 6, 7, 8] ∧
  [Phase.none, .opening, .transferring, .closing].map (fun c => c.code) = [0, 1, 2, 3] ∧
  [ErrorKind.none, .timeout, .corrupt, .stray, .seqSlip].map (fun c => c.code) = [0, 1, 2, 3, 4] ∧
  (∀ (e : Nat) (b : Bool), [SlotRequest.openExchange, .put e b, .fetch e b, .close].map (fun c => c.code) =
    [1, 2, 3, 4]) ∧
  [Condition.none, .ok, .refused, .retries, .holdExpired, .longData, .resultBad, .resultError, .moduleLost,
    .moduleMismatch, .linkDown, .linkFault].map (fun c => c.code) = [0, 1, 2, 3, 4, 5, 6, 7, 8, 9, 10, 11] ∧
  [WindowCause.none, .noUnit, .noIndex, .readOnly, .wrongState, .areaFull, .areaEmpty].map (fun c => c.code) =
    [0, 1, 2, 3, 4, 5, 6] ∧
  [ResultCode.none, .accepted, .wrongState, .badArgument, .inUse, .absent, .areaBusy, .noRoom,
    .unknownCommand].map (fun c => c.code) = [0, 1, 2, 3, 4, 5, 6, 7, 8] ∧
  [ResetCause.power, .platform].map (fun c => c.code) = [1, 2] ∧
  [EventKind.noticeWaiting, .cycleEnd, .overrun, .linkChange, .outputExpired, .noticeLost,
    .windowError].map (fun c => c.mask) = [1, 2, 4, 8, 16, 32, 64]

/-! ### Link control -/

/-- START in OFF: line configuration loaded, pair driven idle, CHECKING, the change recorded, told and raised, the count
of high samples 0 (R24, R26). In any other state: WRONG_STATE and nothing else (R25). -/
def Obligations.StartBeginsLineCheck : Prop :=
  ∀ s : State, s.atCommand .link = true →
    (s.link.state = .off → exec .start s = .next (answered .link 1#8 .accepted
      { s with
        line := { s.line with bitRate := s.link.bitRate, replyWindow := s.link.replyWindow, lde := true, ltx := .idle }
        link := { s.link with state := .checking, lastOld := .off, lastNew := .checking, lastCause := .command,
                              highSamples := 0 }
        notices := (s.notices.offer s.sched.cycleCounter (.linkState .off .checking .command)).raise .linkChange })) ∧
    (s.link.state ≠ .off → exec .start s = .next (answered .link 1#8 .wrongState s))

/-- The line check ends: at the 2,048th high sample in IDLE with CHECK_PASSED, the pair still driven; at a low sample in
FAULT with LINE_HELD, LDE deasserted and the link-down step with LINK_FAULT performed (R27, R28, R29). LTX idle in FAULT
is the model's choice (log entry 8), and so is the count of high samples that comes with the event (log entry 11). -/
def Obligations.LineCheckEnds : Prop :=
  ∀ s : State, s.link.state = .checking →
    exec .lineCheckComplete s = .next
      { s with
        link := { s.link with state := .idle, lastOld := .checking, lastNew := .idle, lastCause := .checkPassed,
                              highSamples := 2048 }
        notices := (s.notices.offer s.sched.cycleCounter (.linkState .checking .idle .checkPassed)).raise .linkChange } ∧
    ∀ highs, highs < 2048 → exec (.lineCheckFailed highs) s = .next (linkDownStep .linkFault
      { s with
        line := { s.line with lde := false, ltx := .idle }
        link := { s.link with state := .fault, lastOld := .checking, lastNew := .fault, lastCause := .lineHeld,
                              highSamples := highs }
        notices := (s.notices.offer s.sched.cycleCounter (.linkState .checking .fault .lineHeld)).raise .linkChange })

/-- RUN in IDLE: RUNNING, told before the first cycle starts at once (R30, R42); elsewhere WRONG_STATE (R25). -/
def Obligations.RunStartsFirstCycle : Prop :=
  ∀ s : State, s.atCommand .link = true →
    (s.link.state = .idle → ∃ t : State, exec .run s = .next (answered .link 2#8 .accepted t) ∧
      t = cycleStart false { s with
        link := { s.link with state := .running, lastOld := .idle, lastNew := .running, lastCause := .command }
        notices := (s.notices.offer s.sched.cycleCounter (.linkState .idle .running .command)).raise .linkChange } ∧
      t.link.state = .running ∧ t.sched.stage = .mark ∧ t.sched.cycleCounter = s.sched.cycleCounter + 1#16 ∧
      t.line.txn = some (markTxn (s.sched.cycleCounter + 1#16) t.image.outputsValid) ∧
      t.table = s.table ∧ t.areas = s.areas) ∧
    (s.link.state ≠ .idle → exec .run s = .next (answered .link 2#8 .wrongState s))

/-- STOP in RUNNING: STOPPING; with no transaction in flight the STOP_DONE entry follows within the command; elsewhere
WRONG_STATE (R25, R31). The STOP_DONE entry, there and at a transaction's end: IDLE, told before all else, the pair
driven idle; in stage MARK or SCAN the cycle end STOPPED, with the entries from the scan position on as cut; the timer
stopped, stage NONE; and each slot in a phase is ABORTED with its phase recorded and abort-requested clear, with its
SLOT_ENDED, in slot-number order. Holders, lists, module states, counts, other slots and areas stay (R32, R47, R48, R61,
R122, R168). -/
def Obligations.StopHaltsCycling : Prop :=
  (∀ s : State, s.atCommand .link = true →
    (s.link.state = .running → s.line.txn ≠ none → exec .stop s = .next (answered .link 3#8 .accepted
      { s with
        link := { s.link with state := .stopping, lastOld := .running, lastNew := .stopping, lastCause := .command }
        notices := (s.notices.offer s.sched.cycleCounter (.linkState .running .stopping .command)).raise
          .linkChange })) ∧
    (s.link.state = .running → s.line.txn = none → exec .stop s = .next (answered .link 3#8 .accepted (stopDone
      { s with
        link := { s.link with state := .stopping, lastOld := .running, lastNew := .stopping, lastCause := .command }
        notices := (s.notices.offer s.sched.cycleCounter (.linkState .running .stopping .command)).raise
          .linkChange }))) ∧
    (s.link.state ≠ .running → exec .stop s = .next (answered .link 3#8 .wrongState s))) ∧
  (∀ s : State,
    let t := stopDone s
    let cut := s.sched.scanLength.toNat - s.sched.scanPos
    let told := (s.notices.offer s.sched.cycleCounter (.linkState s.link.state .idle .stopDone)).raise .linkChange
    t.link = { s.link with state := .idle, lastOld := s.link.state, lastNew := .idle, lastCause := .stopDone } ∧
    t.line = { s.line with lde := true, ltx := .idle } ∧
    (s.sched.stage = .mark ∨ s.sched.stage = .scan →
      t.table = (cycleEnd .stopped cut s).table ∧ t.image = (cycleEnd .stopped cut s).image ∧
      t.sched = { s.sched with
        timer := .stopped
        stage := .none
        record := { number := s.sched.cycleCounter, scanned := s.sched.scanned, cut := cut, status := .stopped,
                    late := s.sched.lateStart } }) ∧
    (s.sched.stage ≠ .mark → s.sched.stage ≠ .scan →
      t.table = s.table ∧ t.image = s.image ∧ t.sched = { s.sched with timer := .stopped, stage := .none }) ∧
    (∀ k, (t.moduleAt k).state = (s.moduleAt k).state ∧ (t.moduleAt k).holder = (s.moduleAt k).holder ∧
      (t.moduleAt k).waiting = (s.moduleAt k).waiting ∧ (t.moduleAt k).failCount = (s.moduleAt k).failCount) ∧
    (∀ n, t.slotAt n =
      if (s.slotAt n).state = .opening ∨ (s.slotAt n).state = .transferring ∨ (s.slotAt n).state = .closing then
        { s.slotAt n with
          state := .aborted
          run := { (s.slotAt n).run with
            recordedPhase := (s.slotAt n).state.phase, condition := .none, waitArea := false, deferred := false,
            abortRequested := false } }
      else s.slotAt n) ∧
    t.notices = NoticeUnit.offerAll s.sched.cycleCounter
      (slotEnds (fun n => if (s.slotAt n).state.inPhase then some (.slotEnded n .aborted .none false) else none))
      (if s.sched.stage = .mark ∨ s.sched.stage = .scan then told.raise .cycleEnd else told) ∧
    t.areas = s.areas ∧ t.exch.subject = s.exch.subject ∧ t.exch.retryLimit = s.exch.retryLimit ∧
    t.exch.holdLimit = s.exch.holdLimit ∧ t.table.subject = s.table.subject ∧ t.window = s.window ∧
    t.pending = s.pending)

/-- SHUTDOWN. With no transaction in flight: OFF, the pair released, the echo fault count 0, and the link-down step with
LINK_DOWN. Over a transaction it cuts it, whatever its phase: no cycle and no transaction starts and no cycle end is
made. In OFF: WRONG_STATE and nothing else (R18, R25, R33, R34, R36). LTX idle after the cut and in OFF is the model's
choice (log entry 8). -/
def Obligations.ShutdownTakesLinkOff : Prop :=
  ∀ s : State, s.atCommand .link = true →
    (s.link.state ≠ .off → s.line.txn = none → exec .shutdown s = .next (answered .link 4#8 .accepted
      (linkDownStep .linkDown
        { s with
          line := { s.line with lde := false, ltx := .idle, echoFaults := 0 }
          link := { s.link with state := .off, lastOld := s.link.state, lastNew := .off, lastCause := .command }
          notices := (s.notices.offer s.sched.cycleCounter (.linkState s.link.state .off .command)).raise
            .linkChange }))) ∧
    (s.link.state ≠ .off → s.line.txn ≠ none →
      ∃ t : State, exec .shutdown s = .next (answered .link 4#8 .accepted t) ∧
        t.link = { s.link with state := .off, lastOld := s.link.state, lastNew := .off, lastCause := .command } ∧
        t.line = { s.line with txn := none, lde := false, ltx := .idle, echoFaults := 0 } ∧
        t.sched.stage = .none ∧ t.sched.timer = .stopped ∧ t.sched.cycleCounter = s.sched.cycleCounter ∧
        t.sched.record = s.sched.record ∧ t.areas = s.areas ∧ t.image.live = s.image.live ∧
        t.image.active = s.image.active ∧ (∀ k, (t.moduleAt k).holder = .none ∧ (t.moduleAt k).failCount = 0) ∧
        (∀ n, (t.slotAt n).state.endedByLinkDown = false)) ∧
    (s.link.state = .off → exec .shutdown s = .next (answered .link 4#8 .wrongState s))

/-- The link-down step at its owners: modules mapped and cleared, slots ended with the step's condition and their
SLOT_ENDED notices in slot-number order, outputs invalid, the cycle dropped; line, link, window, areas and the kept
fields as before (R36, R62, R89, R107, R122, R126). -/
def Obligations.LinkDownStepAtItsOwners : Prop :=
  ∀ (c : Condition) (s : State),
    let t := linkDownStep c s
    (∀ k, t.moduleAt k =
      { s.moduleAt k with
        state := (match (s.moduleAt k).state with
          | .present => .expected | .suspect => .expected | .lost => .expected | .mismatch => .expected
          | .found => .vacant | .vacant => .vacant | .expected => .expected | .disabled => .disabled)
        failCount := 0, cancelHold := 0, holder := .none, waiting := [], refreshed := false, mismatch := .none,
        age := 255 }) ∧
    t.table.subject = s.table.subject ∧
    (∀ n, t.slotAt n =
      if (s.slotAt n).state = .free ∨ (s.slotAt n).state = .done ∨ (s.slotAt n).state = .failed then s.slotAt n
      else { s.slotAt n with
        state := .failed
        run := { (s.slotAt n).run with condition := c, waitArea := false, deferred := false } }) ∧
    t.notices = NoticeUnit.offerAll s.sched.cycleCounter
      (slotEnds (fun n =>
        if (s.slotAt n).state = .free ∨ (s.slotAt n).state = .done ∨ (s.slotAt n).state = .failed then none
        else some (.slotEnded n .failed c (s.slotAt n).run.abortRequested))) s.notices ∧
    t.image = { s.image with outputsValid := false, supervision := 0, commitPending := false } ∧
    t.sched = { s.sched with timer := .stopped, stage := .none, lateStart := false, cancelDeferred := [] } ∧
    t.line = s.line ∧ t.link = s.link ∧ t.window = s.window ∧ t.areas = s.areas ∧ t.pending = s.pending ∧
    t.exch.retryLimit = s.exch.retryLimit ∧ t.exch.holdLimit = s.exch.holdLimit ∧ t.exch.subject = s.exch.subject

/-! ### Cycles and the bus scheduler -/

/-- The guarded host fields. The link configuration is taken with its adjustments in OFF alone; cycle length, scan list,
search-vacant and the exchange limits are taken with theirs while no cycles run; a module's fields are taken while it is
out of service, a slot's while it is FREE. A refused write changes nothing but the window error WRONG_STATE (R23, R39,
R44, R56, R66, R110, R115, R182). -/
def Obligations.GuardedFieldWrites : Prop :=
  (∀ (v : Byte) (s : State),
    (s.link.state = .off →
      (s.atReg (.byte .bitRate) → exec (.linkConfigWrite v) s =
        .next (stepped { s with link := { s.link with bitRate := v &&& 3#8 } })) ∧
      (s.atReg (.byte .replyWindow) → exec (.linkConfigWrite v) s =
        .next (stepped { s with link := { s.link with replyWindow := if v.toNat < 16 then 16#8 else v } })) ∧
      (s.atReg (.byte .threshold) → exec (.linkConfigWrite v) s =
        .next (stepped { s with link := { s.link with
          threshold := if v = 0#8 then 1#8 else if 7 < v.toNat then 7#8 else v } }))) ∧
    (s.link.state ≠ .off → ∀ r, s.atReg r → r.writeClass s.image.select = .linkConfig →
      exec (.linkConfigWrite v) s = .next (stepped (erred .wrongState s)))) ∧
  (∀ (v : Byte) (s : State),
    (s.link.state ≠ .running → s.link.state ≠ .stopping →
      (s.atReg (.lo .cycleLength) → exec (.cycleLengthWrite v) s = .next (stepped { s with sched := { s.sched with
        cycleLength := if (halfOf (hiByte s.sched.cycleLength) v).toNat < 64 then 64#16
          else halfOf (hiByte s.sched.cycleLength) v } })) ∧
      (s.atReg (.hi .cycleLength) → exec (.cycleLengthWrite v) s = .next (stepped { s with sched := { s.sched with
        cycleLength := if (halfOf v (loByte s.sched.cycleLength)).toNat < 64 then 64#16
          else halfOf v (loByte s.sched.cycleLength) } })) ∧
      (s.atReg (.byte .scanLength) → exec (.scanListWrite v) s = .next (stepped { s with sched := { s.sched with
        scanLength := if 32 < v.toNat then 32#8 else v } })) ∧
      (∀ j, s.atReg (.scanEntry j) → exec (.scanListWrite v) s = .next (stepped { s with sched := { s.sched with
        scanEntries := s.sched.scanEntries.set j v } })) ∧
      (s.atReg (.byte .searchVacant) → exec (.searchVacantWrite v) s = .next (stepped { s with sched := { s.sched with
        searchVacant := decide (v ≠ 0#8) } }))) ∧
    (s.link.state = .running ∨ s.link.state = .stopping →
      (∀ r, s.atReg r → r.writeClass s.image.select = .cycleLength →
        exec (.cycleLengthWrite v) s = .next (stepped (erred .wrongState s))) ∧
      (∀ r, s.atReg r → r.writeClass s.image.select = .scanList →
        exec (.scanListWrite v) s = .next (stepped (erred .wrongState s))) ∧
      (∀ r, s.atReg r → r.writeClass s.image.select = .searchVacant →
        exec (.searchVacantWrite v) s = .next (stepped (erred .wrongState s))))) ∧
  (∀ (v : Byte) (s : State),
    let k := s.table.subject
    let m := s.selModule
    (m.state ≠ .present → m.state ≠ .suspect →
      (s.atReg (.lo .expectedType) → exec (.moduleFieldWrite v) s =
        .next (stepped (s.setModule k { m with expectedType := halfOf (hiByte m.expectedType) v }))) ∧
      (s.atReg (.hi .expectedType) → exec (.moduleFieldWrite v) s =
        .next (stepped (s.setModule k { m with expectedType := halfOf v (loByte m.expectedType) }))) ∧
      (s.atReg (.lo .inOffset) → exec (.moduleFieldWrite v) s =
        .next (stepped (s.setModule k { m with inOffset := halfOf (hiByte m.inOffset) v }))) ∧
      (s.atReg (.hi .inOffset) → exec (.moduleFieldWrite v) s =
        .next (stepped (s.setModule k { m with inOffset := halfOf v (loByte m.inOffset) }))) ∧
      (s.atReg (.lo .outOffset) → exec (.moduleFieldWrite v) s =
        .next (stepped (s.setModule k { m with outOffset := halfOf (hiByte m.outOffset) v }))) ∧
      (s.atReg (.hi .outOffset) → exec (.moduleFieldWrite v) s =
        .next (stepped (s.setModule k { m with outOffset := halfOf v (loByte m.outOffset) }))) ∧
      (s.atReg (.byte .inLength) → exec (.moduleFieldWrite v) s =
        .next (stepped (s.setModule k { m with inLength := v }))) ∧
      (s.atReg (.byte .outLength) → exec (.moduleFieldWrite v) s =
        .next (stepped (s.setModule k { m with outLength := v }))) ∧
      (s.atReg (.byte .watchMask) → exec (.moduleFieldWrite v) s =
        .next (stepped (s.setModule k { m with watchMask := v })))) ∧
    (m.state = .present ∨ m.state = .suspect → ∀ r, s.atReg r → r.writeClass s.image.select = .moduleField →
      exec (.moduleFieldWrite v) s = .next (stepped (erred .wrongState s)))) ∧
  (∀ (v : Byte) (s : State),
    let n := s.exch.subject
    let x := s.selSlot
    (x.state = .free →
      (s.atReg (.byte .moduleAddr) → exec (.slotFieldWrite v) s =
        .next (stepped (s.setSlot n { x with host := { x.host with moduleAddr := v } }))) ∧
      (s.atReg (.byte .kind) → exec (.slotFieldWrite v) s =
        .next (stepped (s.setSlot n { x with host := { x.host with kind := v } }))) ∧
      (s.atReg (.lo .tag) → exec (.slotFieldWrite v) s =
        .next (stepped (s.setSlot n { x with host := { x.host with tag := halfOf (hiByte x.host.tag) v } }))) ∧
      (s.atReg (.hi .tag) → exec (.slotFieldWrite v) s =
        .next (stepped (s.setSlot n { x with host := { x.host with tag := halfOf v (loByte x.host.tag) } }))) ∧
      (s.atReg (.lo .declared) → exec (.slotFieldWrite v) s =
        .next (stepped (s.setSlot n { x with host := { x.host with declared := halfOf (hiByte x.host.declared) v } }))) ∧
      (s.atReg (.hi .declared) → exec (.slotFieldWrite v) s =
        .next (stepped (s.setSlot n { x with host := { x.host with declared := halfOf v (loByte x.host.declared) } }))) ∧
      (s.atReg (.byte .area) → ∀ a : Fin 4, v.toNat % 4 = a.val → exec (.slotFieldWrite v) s =
        .next (stepped (s.setSlot n { x with host := { x.host with area := a } }))) ∧
      (s.atReg (.byte .pieceLimit) → exec (.slotFieldWrite v) s =
        .next (stepped (s.setSlot n { x with host := { x.host with pieceLimit := v } }))) ∧
      (s.atReg (.byte .blockLength) → exec (.slotFieldWrite v) s =
        .next (stepped (s.setSlot n { x with host := { x.host with blockLength := v } }))) ∧
      (∀ j, s.atReg (.blockByte j) → exec (.slotFieldWrite v) s =
        .next (stepped (s.setSlot n { x with host := { x.host with block := x.host.block.set j v } })))) ∧
    (x.state ≠ .free → ∀ r, s.atReg r → r.writeClass s.image.select = .slotField →
      exec (.slotFieldWrite v) s = .next (stepped (erred .wrongState s))) ∧
    (s.link.state ≠ .running → s.link.state ≠ .stopping →
      (s.atReg (.byte .retryLimit) → exec (.exchangeLimitWrite v) s = .next (stepped { s with exch := { s.exch with
        retryLimit := if v = 0#8 then 1#8 else if 7 < v.toNat then 7#8 else v } })) ∧
      (s.atReg (.byte .holdLimit) → exec (.exchangeLimitWrite v) s = .next (stepped { s with exch := { s.exch with
        holdLimit := v } }))) ∧
    (s.link.state = .running ∨ s.link.state = .stopping → ∀ r, s.atReg r →
      r.writeClass s.image.select = .exchangeLimit →
      exec (.exchangeLimitWrite v) s = .next (stepped (erred .wrongState s))))

/-- A cycle start: counter, timer, deferrals, late-start flag, scan position and count of entries scanned, stage MARK
with its MARK in flight; a pending commit is applied. With none pending supervision is advanced: off at deadline 0,
else the counter goes up to 255 and outputs that were valid expire at the deadline, with the event and the notice,
which carries the new cycle number (R42, R43, R48, R102, R103). -/
def Obligations.CycleStartSteps : Prop :=
  (∀ (late : Bool) (s : State),
    let t := cycleStart late s
    t.sched.cycleCounter = s.sched.cycleCounter + 1#16 ∧
    t.sched.timer = .running (16 * s.sched.cycleLength.toNat) ∧
    (∀ n, t.slotAt n = { s.slotAt n with run := { (s.slotAt n).run with deferred := false } }) ∧
    t.sched.cancelDeferred = [] ∧ t.sched.lateStart = late ∧ t.sched.scanPos = 0 ∧ t.sched.scanned = 0 ∧
    t.sched.stage = .mark ∧
    t.line = { s.line with
      txn := some (markTxn (s.sched.cycleCounter + 1#16) t.image.outputsValid), lde := true, ltx := .idle } ∧
    (s.image.commitPending = true →
      t.image = { s.image with active := s.image.staging, commitPending := false, supervision := 0,
                               outputsValid := true } ∧ t.notices = s.notices) ∧
    (s.image.commitPending = false →
      let count := min 255 (s.image.supervision + 1)
      let expires := s.image.deadline.toNat ≤ count ∧ s.image.outputsValid = true
      (s.image.deadline = 0#8 → t.image = s.image ∧ t.notices = s.notices) ∧
      (s.image.deadline ≠ 0#8 → ¬ expires →
        t.image = { s.image with supervision := count } ∧ t.notices = s.notices) ∧
      (s.image.deadline ≠ 0#8 → expires →
        t.image = { s.image with supervision := count, outputsValid := false } ∧
        t.notices = (s.notices.offer (s.sched.cycleCounter + 1#16) (.outputExpired s.image.deadline)).raise
          .outputExpired)) ∧
    t.table = s.table ∧ t.areas = s.areas ∧ t.link = s.link ∧ t.window = s.window ∧
    t.sched.record = s.sched.record ∧ t.sched.rrPtr = s.sched.rrPtr ∧ t.sched.probePtr = s.sched.probePtr) ∧
  (∀ s : State, s.image.commitPending = false →
    let count := min 255 (s.image.supervision + 1)
    (s.image.deadline = 0#8 → imageCycleStart s = s) ∧
    (s.image.deadline ≠ 0#8 → (count < s.image.deadline.toNat ∨ s.image.outputsValid = false) →
      imageCycleStart s = { s with image := { s.image with supervision := count } }) ∧
    (s.image.deadline ≠ 0#8 → s.image.deadline.toNat ≤ count → s.image.outputsValid = true →
      imageCycleStart s =
        { s with
          image := { s.image with supervision := count, outputsValid := false }
          notices := (s.notices.offer s.sched.cycleCounter (.outputExpired s.image.deadline)).raise .outputExpired }))

/-- The cycle end: ages, then the copy of live image, ages and cycle number when FREEZE, FOLLOW and snapshot-pending
allow it, then the record, the overrun report and CYCLE_END (R47, R48, R88, R94, R98). -/
def Obligations.CycleEndSteps : Prop :=
  ∀ (status : CycleStatus) (cut : Nat) (s : State),
    let t := cycleEnd status cut s
    (∀ k, t.moduleAt k =
      { s.moduleAt k with
        age := if ((s.moduleAt k).state = .present ∨ (s.moduleAt k).state = .suspect ∨ (s.moduleAt k).state = .lost) ∧
            (s.moduleAt k).refreshed = false then min 255 ((s.moduleAt k).age + 1) else (s.moduleAt k).age
        refreshed := false }) ∧
    (s.image.freeze = false → (s.image.follow = true ∨ s.image.snapshotPending = true) →
      t.image.held = s.image.live ∧ (∀ k : Fin 30, t.image.heldAges[k] = (t.moduleAt k).age) ∧
      t.image.heldCycle = s.sched.cycleCounter ∧ t.image.snapshotPending = false) ∧
    (s.image.freeze = true ∨ (s.image.follow = false ∧ s.image.snapshotPending = false) → t.image = s.image) ∧
    t.image.live = s.image.live ∧ t.image.staging = s.image.staging ∧ t.image.active = s.image.active ∧
    t.sched = { s.sched with record :=
      { number := s.sched.cycleCounter, scanned := s.sched.scanned, cut := cut, status := status,
        late := s.sched.lateStart } } ∧
    (status ≠ .overrun → t.notices = s.notices.raise .cycleEnd) ∧
    (status = .overrun → t.notices =
      ((s.notices.offer s.sched.cycleCounter (.cycleOverrun cut)).raise .overrun).raise .cycleEnd) ∧
    t.line = s.line ∧ t.link = s.link ∧ t.exch = s.exch ∧ t.areas = s.areas ∧ t.window = s.window

/-- CYCLE_TIMER_EXPIRY of a running timer, by link state, stage and transaction in flight; between two SCANs the cut
comes at once and the next cycle is not late (the table of R40, R31, R46, R49). That the expiry is taken whatever bit
times are left, and that in STOPPING it marks the timer expired, is the model's choice (log entry 10). -/
def Obligations.TimerExpiryByStage : Prop :=
  ∀ (r : Nat) (s : State), s.sched.timer = .running r →
    let e : State := { s with sched := { s.sched with timer := .expired } }
    (s.link.state = .stopping → exec .cycleTimerExpiry s = .next e) ∧
    (s.link.state = .running → s.line.txn ≠ none → exec .cycleTimerExpiry s = .next e) ∧
    (s.link.state = .running → s.line.txn = none →
      (s.sched.stage = .acyclic ∨ s.sched.stage = .probe ∨ s.sched.stage = .rest →
        exec .cycleTimerExpiry s = .next (cycleStart false e)) ∧
      (s.sched.stage = .mark ∨ s.sched.stage = .scan →
        exec .cycleTimerExpiry s = .next
          (cycleStart false (cycleEnd .overrun (s.sched.scanLength.toNat - s.sched.scanPos) e))))

/-- The walk: from the scan position on, the first entry whose module is in service is scanned, with its output bytes
and its exact reply length, and the entries before it are passed over; with no such entry the cycle end COMPLETE is
made and stage ACYCLIC entered (R45, R100). -/
def Obligations.WalkScansNextModuleInService : Prop :=
  ∀ s : State,
    (∀ (p : Nat) (k : Fin 30), s.sched.scanPos ≤ p → p < s.sched.scanLength.toNat → p < 32 →
      (s.scanEntry p).toNat = moduleAddress k → (s.moduleAt k).state.inService = true →
      (∀ q, s.sched.scanPos ≤ q → q < p → ∀ j : Fin 30, (s.scanEntry q).toNat = moduleAddress j →
        (s.moduleAt j).state.inService = false) →
      walk s = { s with
        sched := { s.sched with scanPos := p, forSlot := none }
        line := { s.line with
          txn := some { kind := .scan, address := moduleAddress k,
                        payload := s.image.active.readBytes (s.moduleAt k).outOffset.toNat
                          (s.moduleAt k).outLength.toNat,
                        seqBit := false, allowed := [.scanReply],
                        exactLength := some (1 + (s.moduleAt k).inLength.toNat),
                        phase := .gap, received := [], settling := none }
          lde := true
          ltx := .idle } }) ∧
    ((∀ q, s.sched.scanPos ≤ q → q < s.sched.scanLength.toNat → ∀ j : Fin 30, (s.scanEntry q).toNat = moduleAddress j →
        (s.moduleAt j).state.inService = false) →
      walk s = enterAcyclic (cycleEnd .complete 0
        { s with sched := { s.sched with scanPos := s.sched.scanLength.toNat } }))

/-- An acyclic pick takes the cancel candidate with the lowest module address first, and before any slot. A candidate
is a module in service whose cancel is pending and not deferred in this cycle. With no candidate, whether no cancel is
pending or each one is deferred, the only active slot, QUEUED at the head of its module's list with the module free
and in service, leaves the queue and its OPEN is started, the pointer moving to it. What does not fit the budget is
not started and the stage ends (R51 to R54, R84, R119, R142). -/
def Obligations.AcyclicPickTakesCancelThenQueuedHead : Prop :=
  (∀ (s : State) (k : Fin 30) (tag : Half), (s.moduleAt k).holder = .cancelPending tag →
    (s.moduleAt k).state.inService = true → k ∉ s.sched.cancelDeferred →
    (∀ (j : Fin 30) (other : Half), j < k → (s.moduleAt j).holder = .cancelPending other →
      (s.moduleAt j).state.inService = true → j ∈ s.sched.cancelDeferred) →
    (162 + s.line.replyWindow.toNat ≤ s.budget → acyclicPick s =
      { s with
        sched := { s.sched with forSlot := none }
        line := { s.line with
          txn := some { kind := .cancel, address := moduleAddress k, payload := [hiByte tag, loByte tag],
                        seqBit := false, allowed := [.accept, .hold, .refuse], exactLength := none, phase := .gap,
                        received := [], settling := none }
          lde := true
          ltx := .idle } }) ∧
    (s.budget < 162 + s.line.replyWindow.toNat → acyclicPick s = probeStage s)) ∧
  (∀ (s : State) (n : Fin 8) (k : Fin 30) (rest : List (Fin 8)),
    (∀ (j : Fin 30) (tag : Half), (s.moduleAt j).holder = .cancelPending tag → (s.moduleAt j).state.inService = true →
      j ∈ s.sched.cancelDeferred) →
    (∀ m, m ≠ n → (s.slotAt m).state = .free ∨ (s.slotAt m).state.ended = true) →
    (s.slotAt n).state = .queued → (s.slotAt n).host.moduleAddr.toNat = moduleAddress k →
    (s.moduleAt k).waiting = n :: rest → (s.moduleAt k).state.inService = true → (s.moduleAt k).holder = .none →
    let cost := 192 + 10 * (s.slotAt n).host.blockLength.toNat + s.line.replyWindow.toNat
    (cost ≤ s.budget → ∃ t : State, acyclicPick s = t ∧
      t.slotAt n = { s.slotAt n with
        state := .opening
        run := { (s.slotAt n).run with recordedPhase := .opening }
        inFlight := some .openExchange } ∧
      t.moduleAt k = { s.moduleAt k with waiting := rest, holder := .slot n } ∧
      t.sched = { s.sched with rrPtr := n, forSlot := some n } ∧
      t.line = { s.line with
        txn := some { kind := .openExchange, address := moduleAddress k, payload := openPayload (s.slotAt n).host,
                      seqBit := false, allowed := [.accept, .hold, .refuse], exactLength := none, phase := .gap,
                      received := [], settling := none }
        lde := true
        ltx := .idle } ∧
      otherSlotsKept n s t ∧ otherModulesKept k s t ∧ t.image = s.image ∧ t.areas = s.areas ∧
      t.notices = s.notices ∧ t.link = s.link ∧ t.window = s.window) ∧
    (s.budget < cost → acyclicPick s = probeStage s))

/-- The round-robin search among several slots, made where no cancel is pending but those deferred in this cycle, and
the start of the slot it takes. Eligible is a QUEUED slot at the head of its module's list, the module free and in
service, and a slot in a phase that is not deferred and, in TRANSFERRING, whose area gate is met for the effective
piece. The first eligible slot after the pointer, the pointer's own slot last, is taken; the gates judged on the way
set WAIT_AREA, and the gate of the one taken clears it. Its OPEN, PUT, FETCH or CLOSE is started if it fits the
budget, and the pointer moves to it; if it does not fit, or no slot is eligible, the acyclic stage ends (R21, R51,
R52, R53, R54, R119, R142, R144, R145). -/
def Obligations.RoundRobinPicksAndStartsASlot : Prop :=
  (∀ (x : Slot) (s : State) (k : Fin 30), x.host.moduleAddr.toNat = moduleAddress k →
    let e := min x.host.pieceLimit.toNat
      (min (s.moduleAt k).repMax.toNat (x.host.declared.toNat - x.run.bytesMoved))
    let r := s.areaAt x.host.area
    effectivePiece x s = e ∧
    (x.host.kind = 1#8 → gateMet x s = decide (e ≤ r.fill)) ∧
    (x.host.kind = 2#8 → gateMet x s = decide (e ≤ r.size - r.fill))) ∧
  (∀ (n : Fin 8) (s : State),
    let x := s.slotAt n
    slotEligible n s = true ↔
      (x.state = .queued ∧ ∃ k : Fin 30, x.host.moduleAddr.toNat = moduleAddress k ∧
        (s.moduleAt k).waiting.head? = some n ∧ (s.moduleAt k).state.inService = true ∧ (s.moduleAt k).holder = .none) ∨
      ((x.state = .opening ∨ x.state = .closing) ∧ x.run.deferred = false) ∨
      (x.state = .transferring ∧ x.run.deferred = false ∧ gateMet x s = true)) ∧
  (∀ s : State,
    (∀ (j : Fin 30) (tag : Half), (s.moduleAt j).holder = .cancelPending tag → (s.moduleAt j).state.inService = true →
      j ∈ s.sched.cancelDeferred) →
    let before := fun m n : Fin 8 => (m - s.sched.rrPtr - 1).val < (n - s.sched.rrPtr - 1).val
    let judged := fun x : Slot => x.state = .transferring ∧ x.run.deferred = false
    let waits := fun x : Slot => { x with run := { x.run with waitArea := true } }
    (∀ (n : Fin 8) (k : Fin 30), slotEligible n s = true → (∀ m, before m n → slotEligible m s = false) →
      (s.slotAt n).host.moduleAddr.toNat = moduleAddress k →
      let x := s.slotAt n
      let e := effectivePiece x s
      let bytes := (List.range e).map (fun i => s.areas.memory.read
        ((s.areaAt x.host.area).start + ((s.areaAt x.host.area).oldest + i) % (s.areaAt x.host.area).size))
      let request : SlotRequest := match x.state with
        | .transferring => if x.host.kind = 1#8 then .put e x.run.putSeq else .fetch e x.run.fetchSeq
        | .closing => .close
        | _ => .openExchange
      let txn : Txn := match request with
        | .put _ bit => { kind := .put, address := moduleAddress k, payload := bytes, seqBit := bit,
                          allowed := [.accept, .hold, .refuse], exactLength := none, phase := .gap, received := [],
                          settling := none }
        | .fetch _ bit => { kind := .fetch, address := moduleAddress k, payload := [BitVec.ofNat 8 e], seqBit := bit,
                            allowed := [.data, .hold, .refuse], exactLength := none, phase := .gap, received := [],
                            settling := none }
        | .close => { kind := .close, address := moduleAddress k, payload := [], seqBit := false,
                      allowed := [.result, .hold, .refuse], exactLength := none, phase := .gap, received := [],
                      settling := none }
        | .openExchange => { kind := .openExchange, address := moduleAddress k, payload := openPayload x.host,
                             seqBit := false, allowed := [.accept, .hold, .refuse], exactLength := none,
                             phase := .gap, received := [], settling := none }
      let cost := s.line.replyWindow.toNat + match request with
        | .put _ _ => 142 + 10 * e
        | .fetch _ _ => 142 + 10 * e
        | .close => 212
        | .openExchange => 192 + 10 * x.host.blockLength.toNat
      let passed := fun m : Fin 8 => if before m n ∧ judged (s.slotAt m) then waits (s.slotAt m) else s.slotAt m
      let cleared : SlotRun := { x.run with waitArea := if judged x then false else x.run.waitArea }
      (cost ≤ s.budget → ∃ t : State, acyclicPick s = t ∧
        t.slotAt n = { x with
          state := if x.state = .queued then .opening else x.state
          run := { cleared with recordedPhase := if x.state = .queued then .opening else x.run.recordedPhase }
          inFlight := some request } ∧
        (∀ m, m ≠ n → t.slotAt m = passed m) ∧
        t.moduleAt k = (if x.state = .queued then
          { s.moduleAt k with waiting := (s.moduleAt k).waiting.tail, holder := .slot n } else s.moduleAt k) ∧
        otherModulesKept k s t ∧ t.sched = { s.sched with rrPtr := n, forSlot := some n } ∧
        t.line = { s.line with txn := some txn, lde := true, ltx := .idle } ∧ t.image = s.image ∧
        t.areas = s.areas ∧ t.notices = s.notices ∧ t.link = s.link ∧ t.window = s.window) ∧
      (s.budget < cost → ∃ u : State, acyclicPick s = probeStage u ∧
        u = { s with exch := { s.exch with slots := u.exch.slots } } ∧
        u.slotAt n = { x with run := cleared } ∧ ∀ m, m ≠ n → u.slotAt m = passed m)) ∧
    ((∀ n, slotEligible n s = false) → ∃ u : State, acyclicPick s = probeStage u ∧
      u = { s with exch := { s.exch with slots := u.exch.slots } } ∧
      ∀ m, u.slotAt m = if judged (s.slotAt m) then waits (s.slotAt m) else s.slotAt m))

/-- The probe stage: the first candidate after the rotation pointer, the pointer's own address last, is probed and the
pointer moves to it when the cost fits the budget; otherwise, and with no candidate, the stage ends in REST (R56,
R57). -/
def Obligations.ProbeStageTakesNextCandidate : Prop :=
  ∀ s : State,
    let candidate := fun k : Fin 30 => (s.moduleAt k).state = .expected ∨ (s.moduleAt k).state = .lost ∨
      ((s.moduleAt k).state = .vacant ∧ s.sched.searchVacant = true)
    let p := s.sched.probePtr
    (∀ k : Fin 30, candidate k → (∀ j : Fin 30, (j - p - 1).val < (k - p - 1).val → ¬ candidate j) →
      (182 + s.line.replyWindow.toNat ≤ s.budget → probeStage s =
        { s with
          sched := { s.sched with stage := .probe, probePtr := k, forSlot := none }
          line := { s.line with
            txn := some { kind := .probe, address := moduleAddress k, payload := [], seqBit := false,
                          allowed := [.ident], exactLength := none, phase := .gap, received := [], settling := none }
            lde := true
            ltx := .idle } }) ∧
      (s.budget < 182 + s.line.replyWindow.toNat →
        probeStage s = { s with sched := { s.sched with stage := .rest } })) ∧
    ((∀ k : Fin 30, ¬ candidate k) → probeStage s = { s with sched := { s.sched with stage := .rest } })

/-! ### The end of a transaction -/

/-- An outcome goes to its owners by the request: none for MARK; image unit and module table for SCAN, whose entry
counts as scanned, good or not: a SCAN in TIMEOUT, CORRUPT or STRAY counts a failure and at the threshold loses the
module, one in ECHO_FAULT or of a module that has left service changes nothing there; identification for the IDENT of
a PROBE; the module table for CANCEL; the module table and then the exchange unit for a slot's request. Failure
counting takes any reply, TIMEOUT, CORRUPT and STRAY of a module in service. Where it loses the module, the holder
slot ends MODULE_LOST before the waiting ones, and the slot's own counting does not take place: no error is counted,
no cancel is owed (R52, R58, R59, R60, R67 to R71, R76, R93, R122, R124, R141, R146). -/
def Obligations.OutcomesRoutedToOwners : Prop :=
  ∀ (t : Txn) (o : TxnOutcome) (s : State),
    let close := fun u : State => { u with sched := { u.sched with forSlot := none } }
    (t.kind = .mark → t.address = 31 → routeOutcome t o s = close s) ∧
    ∀ k : Fin 30, t.address = moduleAddress k →
      (t.kind = .scan →
        let m := s.moduleAt k
        let u := takeScan k o s
        let error := o = .timeout ∨ o = .corrupt ∨ o = .stray
        routeOutcome t o s = close
          { u with sched := { u.sched with scanned := s.sched.scanned + 1, scanPos := s.sched.scanPos + 1 } } ∧
        (m.state.inService = false ∨ o = .echoFault ∨ o = .abandoned → u = s) ∧
        (m.state.inService = true → error → m.failCount + 1 < s.link.threshold.toNat →
          u = s.setModule k { m with failCount := m.failCount + 1, state := .suspect }) ∧
        (m.state.inService = true → error → s.link.threshold.toNat ≤ m.failCount + 1 →
          u.moduleAt k = { m with
            state := .lost, failCount := s.link.threshold.toNat, holder := .none, cancelHold := 0, waiting := [] } ∧
          (∀ j, u.slotAt j = if m.holder = .slot j ∨ j ∈ m.waiting then
              { s.slotAt j with
                state := .failed
                run := { (s.slotAt j).run with condition := .moduleLost, waitArea := false, deferred := false } }
            else s.slotAt j) ∧
          u.notices = NoticeUnit.offerAll s.sched.cycleCounter
            (.moduleState k m.state .lost .failures ::
              ((allSlots.filter (fun j => m.holder = .slot j)) ++ m.waiting).map
                (fun j => .slotEnded j .failed .moduleLost (s.slotAt j).run.abortRequested)) s.notices ∧
          otherModulesKept k s u ∧ u.image = s.image ∧ u.areas = s.areas ∧ u.sched = s.sched ∧ u.link = s.link ∧
          u.line = s.line ∧ u.window = s.window)) ∧
      (t.kind = .probe →
        (∀ r : Reply, o = .reply (some r) → routeOutcome t o s = close (takeIdent k
          { typeCode := halfOf (r.payload.getD 0 0#8) (r.payload.getD 1 0#8), inLength := r.payload.getD 2 0#8,
            outLength := r.payload.getD 3 0#8, maxPiece := r.payload.getD 4 0#8 } s)) ∧
        ((∀ r : Reply, o ≠ .reply (some r)) → routeOutcome t o s = close s)) ∧
      (t.kind = .cancel → routeOutcome t o s = close (takeCancel k o s)) ∧
      (t.kind = .openExchange ∨ t.kind = .put ∨ t.kind = .fetch ∨ t.kind = .close → ∀ n : Fin 8,
        s.sched.forSlot = some n →
        let x := s.slotAt n
        let m := s.moduleAt k
        let error := o = .timeout ∨ o = .corrupt ∨ o = .stray
        routeOutcome t o s = close (takeSlotOutcome n o (countOutcome k o s)) ∧
        (m.state.inService = false ∨ o = .echoFault ∨ o = .abandoned → countOutcome k o s = s) ∧
        (m.state.inService = true → ∀ r : Option Reply, o = .reply r →
          countOutcome k o s = s.setModule k { m with failCount := 0, state := .present }) ∧
        (m.state.inService = true → error → m.failCount + 1 < s.link.threshold.toNat →
          countOutcome k o s = s.setModule k { m with failCount := m.failCount + 1, state := .suspect }) ∧
        (m.state.inService = true → error → s.link.threshold.toNat ≤ m.failCount + 1 → m.holder = .slot n →
          x.takesOutcome = true → x.inFlight ≠ none →
          let u := routeOutcome t o s
          u.slotAt n = { x with
            state := .failed
            run := { x.run with condition := .moduleLost, waitArea := false, deferred := false }
            inFlight := none } ∧
          u.moduleAt k = { m with
            state := .lost, failCount := s.link.threshold.toNat, holder := .none, cancelHold := 0, waiting := [] } ∧
          (∀ j, j ∈ m.waiting → (u.slotAt j).state = .failed ∧ (u.slotAt j).run.condition = .moduleLost) ∧
          (∀ j, j ≠ n → j ∉ m.waiting → u.slotAt j = s.slotAt j) ∧ otherModulesKept k s u ∧
          u.notices = NoticeUnit.offerAll s.sched.cycleCounter
            (.moduleState k m.state .lost .failures :: .slotEnded n .failed .moduleLost x.run.abortRequested ::
              m.waiting.map (fun j => .slotEnded j .failed .moduleLost (s.slotAt j).run.abortRequested)) s.notices ∧
          u.areas = s.areas))

/-- What follows the routing at a transaction's end. At the echo limit the link enters FAULT. In STOPPING the STOP_DONE
entry is made. In RUNNING, with the timer expired during the transaction, the scan stage is cut as an overrun and in any
stage the next cycle starts at once and late. Otherwise the next decision is taken: the walk after a MARK or a SCAN, the
next pick in ACYCLIC, REST after the PROBE; or, where other events come first, it is left due, with stage SCAN after a
MARK (R17, R19, R20, R32, R43, R45, R46, R49, R50, R51, R57, R61, R164). The order is the sender's to give (log entry
20); the pins as they stand are log entry 8. -/
def Obligations.TransactionEndByStage : Prop :=
  ∀ (t : Txn) (o : TxnOutcome) (order : EndOrder) (s : State),
    let count := if o = .echoFault then min 3 (s.line.echoFaults + 1) else s.line.echoFaults
    let r := routeOutcome t o
      { s with line := { s.line with txn := none, echoFaults := count, lde := true, ltx := .idle } }
    let inScan : State := { r with sched := { r.sched with stage := .scan } }
    let u := endTxn t o order s
    let limit := o = .echoFault ∧ 2 ≤ s.line.echoFaults
    (limit → u = linkDownStep .linkFault
      { r with
        line := { r.line with lde := false, ltx := .idle }
        link := { r.link with state := .fault, lastOld := r.link.state, lastNew := .fault, lastCause := .echoLimit }
        notices := (r.notices.offer r.sched.cycleCounter (.linkState r.link.state .fault .echoLimit)).raise
          .linkChange }) ∧
    (¬ limit → s.link.state = .stopping → u = stopDone r) ∧
    (¬ limit → s.link.state = .running → r.sched.timer = .expired →
      (r.sched.stage = .mark ∨ r.sched.stage = .scan →
        u = cycleStart true (cycleEnd .overrun (r.sched.scanLength.toNat - r.sched.scanPos) inScan)) ∧
      (r.sched.stage = .acyclic ∨ r.sched.stage = .probe → u = cycleStart true r)) ∧
    (¬ limit → s.link.state = .running → r.sched.timer ≠ .expired → order = .decisionFirst →
      (r.sched.stage = .mark ∨ r.sched.stage = .scan → u = walk inScan) ∧
      (r.sched.stage = .acyclic → u = acyclicPick r) ∧
      (r.sched.stage = .probe → u = { r with sched := { r.sched with stage := .rest } })) ∧
    (¬ limit → s.link.state = .running → r.sched.timer ≠ .expired → order = .othersFirst →
      (r.sched.stage = .mark → u = inScan) ∧
      (r.sched.stage = .scan ∨ r.sched.stage = .acyclic ∨ r.sched.stage = .probe → u = r)) ∧
    r.link = s.link ∧ r.sched.timer = s.sched.timer ∧ r.sched.stage = s.sched.stage

/-! ### The module table -/

/-- The five module commands on the selected record, with their checks in order; a refused one changes nothing but the
command and result registers (Table 4-4, R77 to R81). -/
def Obligations.ModuleCommandsTakenInOrder : Prop :=
  ∀ s : State, s.atCommand .modules = true →
    let k := s.table.subject
    let m := s.selModule
    let inside := m.inOffset.toNat + m.inLength.toNat ≤ 1024 ∧ m.outOffset.toNat + m.outLength.toNat ≤ 1024
    let inUse := m.holder ≠ .none ∨ m.waiting ≠ []
    exec .expect s = .next
      (if m.state = .present ∨ m.state = .suspect ∨ m.state = .lost ∨ m.state = .disabled then
        answered .modules 1#8 .wrongState s
      else if ¬ (m.inLength.toNat ≤ 32 ∧ m.outLength.toNat ≤ 32 ∧ inside) then answered .modules 1#8 .badArgument s
      else answered .modules 1#8 .accepted (s.setModule k
        { m with state := .expected, mismatch := .none, failCount := 0, age := 255, refreshed := false })) ∧
    exec .adopt s = .next
      (if m.state ≠ .found ∧ m.state ≠ .mismatch then answered .modules 2#8 .wrongState s
      else if ¬ (m.repIn.toNat ≤ 32 ∧ m.repOut.toNat ≤ 32 ∧ 1 ≤ m.repMax.toNat ∧ m.repMax.toNat ≤ 64 ∧
          m.repIn = m.inLength ∧ m.repOut = m.outLength ∧ inside) then answered .modules 2#8 .badArgument s
      else answered .modules 2#8 .accepted (s.setModule k
        { m with state := .present, expectedType := m.repType, failCount := 0, status := 0#8, age := 255,
                 refreshed := false, mismatch := .none })) ∧
    exec .forget s = .next
      (if m.state = .disabled then answered .modules 3#8 .wrongState s
      else if inUse then answered .modules 3#8 .inUse s
      else answered .modules 3#8 .accepted (s.setModule k
        { m with state := .vacant, failCount := 0, cancelHold := 0, age := 255, refreshed := false,
                 mismatch := .none })) ∧
    exec .disable s = .next
      (if m.state = .disabled then answered .modules 4#8 .wrongState s
      else if inUse then answered .modules 4#8 .inUse s
      else answered .modules 4#8 .accepted (s.setModule k
        { m with state := .disabled, wasConfigured := decide (m.state ≠ .vacant ∧ m.state ≠ .found), failCount := 0,
                 cancelHold := 0, age := 255, refreshed := false, mismatch := .none })) ∧
    exec .enable s = .next
      (if m.state = .disabled then answered .modules 5#8 .accepted (s.setModule k
        { m with state := if m.wasConfigured then .expected else .vacant, age := 255, refreshed := false })
      else answered .modules 5#8 .wrongState s)

/-- An IDENT by the state of the probed address. EXPECTED and LOST are judged by FORMAT, TYPE and LENGTH in this order:
PRESENT with IDENTIFIED or RETURNED, or MISMATCH with the cause of the first check that fails in the record and in the
MODULE_STATE notice, after which the waiting slots end FAILED with MODULE_MISMATCH, their SLOT_ENDED notices in list
order. VACANT with search-vacant on becomes FOUND, and in every other case nothing changes (R71 to R76, R122, R125). -/
def Obligations.IdentificationJudgesIdent : Prop :=
  ∀ (k : Fin 30) (i : Ident) (s : State),
    let m := s.moduleAt k
    let t := takeIdent k i s
    let written : ModuleRecord :=
      { m with repType := i.typeCode, repIn := i.inLength, repOut := i.outLength, repMax := i.maxPiece }
    let format := i.inLength.toNat ≤ 32 ∧ i.outLength.toNat ≤ 32 ∧ 1 ≤ i.maxPiece.toNat ∧ i.maxPiece.toNat ≤ 64
    let type := m.expectedType = 0xFFFF#16 ∨ i.typeCode = m.expectedType
    let length := i.inLength = m.inLength ∧ i.outLength = m.outLength ∧
      m.inOffset.toNat + m.inLength.toNat ≤ 1024 ∧ m.outOffset.toNat + m.outLength.toNat ≤ 1024
    (m.state = .expected ∨ m.state = .lost →
      (format → type → length →
        t = (s.setModule k { written with
              state := .present, failCount := 0, status := 0#8, age := 255, refreshed := false,
              mismatch := .none }).offer
            (.moduleState k m.state .present (if m.state = .lost then .returned else .identified))) ∧
      (¬ (format ∧ type ∧ length) →
        t.moduleAt k = { written with
          state := .mismatch
          mismatch := if ¬ format then .format else if ¬ type then .type else .length
          failCount := 0, age := 255, refreshed := false, waiting := [] } ∧
        (∀ n, t.slotAt n = if n ∈ m.waiting then
            { s.slotAt n with
              state := .failed
              run := { (s.slotAt n).run with condition := .moduleMismatch, waitArea := false, deferred := false } }
          else s.slotAt n) ∧
        t.notices = NoticeUnit.offerAll s.sched.cycleCounter
          (.moduleState k m.state .mismatch
              (if ¬ format then .mismatchFormat else if ¬ type then .mismatchType else .mismatchLength) ::
            m.waiting.map (fun j => .slotEnded j .failed .moduleMismatch (s.slotAt j).run.abortRequested)) s.notices)) ∧
    (m.state = .vacant → s.sched.searchVacant = true →
      t = (s.setModule k { written with state := .found, failCount := 0, age := 255, refreshed := false }).offer
            (.moduleState k .vacant .found .answered)) ∧
    (m.state = .vacant → s.sched.searchVacant = false → t = s) ∧
    (m.state = .present ∨ m.state = .suspect ∨ m.state = .found ∨ m.state = .mismatch ∨ m.state = .disabled → t = s) ∧
    otherModulesKept k s t ∧ t.line = s.line ∧ t.link = s.link ∧ t.sched = s.sched ∧ t.image = s.image ∧
    t.areas = s.areas ∧ t.window = s.window

/-- A silent SCAN in RUNNING: below the threshold the module becomes SUSPECT with one more failure; at the threshold it
is LOST, holds nothing, has no waiting slot, and its holder slot and waiting slots have ended FAILED with MODULE_LOST.
Live image and echo fault count stay (R13, R59, R67, R68, R69, R93, R124). -/
def Obligations.SilentScanCountsOrLosesTheModule : Prop :=
  ∀ (t : Txn) (k : Fin 30) (order : EndOrder) (s : State), s.line.txn = some t → t.phase = .awaiting →
    t.kind = .scan → t.address = moduleAddress k → s.link.state = .running → (s.moduleAt k).state.inService = true →
    s.regionsInside = true → s.areasInside = true →
    ∃ u : State, exec (.replyWindowExpiry order) s = .next u ∧ u.image.live = s.image.live ∧
      u.line.echoFaults = s.line.echoFaults ∧ u.link = s.link ∧ u.areas = s.areas ∧ u.window = s.window ∧
      ((s.moduleAt k).failCount + 1 < s.link.threshold.toNat →
        (u.moduleAt k).state = .suspect ∧ (u.moduleAt k).failCount = (s.moduleAt k).failCount + 1) ∧
      (s.link.threshold.toNat ≤ (s.moduleAt k).failCount + 1 →
        (u.moduleAt k).state = .lost ∧ (u.moduleAt k).failCount = s.link.threshold.toNat ∧
        (u.moduleAt k).holder = .none ∧ (u.moduleAt k).waiting = [] ∧
        ∀ n, ((s.moduleAt k).holder = .slot n ∨ n ∈ (s.moduleAt k).waiting) →
          (u.slotAt n).state = .failed ∧ (u.slotAt n).run.condition = .moduleLost) ∧
      (∀ j, j ≠ k → (u.moduleAt j).state = (s.moduleAt j).state ∧ (u.moduleAt j).failCount = (s.moduleAt j).failCount)

/-- A good SCAN_REPLY: the input bytes stand in the module's region of the live image and every other live byte is as
before; the module is PRESENT with no failure, age 0 and the new status byte. Where a bit under the watch mask differs
from the stored status byte, MODULE_STATUS is offered with both bytes before the new one is stored (R16, R59, R67, R87,
R88, R93). -/
def Obligations.GoodScanReplyLands : Prop :=
  (∀ (t : Txn) (k : Fin 30) (s : State) (frame : List Byte) (idle : Nat) (order : EndOrder) (r : Reply),
    s.line.txn = some t →
    t.phase = .receiving → t.kind = .scan → t.address = moduleAddress k → s.link.state = .running →
    (s.moduleAt k).state.inService = true → s.regionsInside = true → s.areasInside = true → s.image.live.wf →
    replyComplete frame = true → classifyReply t frame = .reply (some r) →
    ∃ u : State, exec (.replyReceived frame idle order) s = .next u ∧
      (u.moduleAt k).state = .present ∧ (u.moduleAt k).failCount = 0 ∧ (u.moduleAt k).age = 0 ∧
      (u.moduleAt k).status = r.payload.headD 0#8 ∧
      (∀ i, i < r.payload.length - 1 →
        u.image.live.read ((s.moduleAt k).inOffset.toNat + i) = r.payload.getD (i + 1) 0#8) ∧
      (∀ a, a < (s.moduleAt k).inOffset.toNat ∨
          (s.moduleAt k).inOffset.toNat + (r.payload.length - 1) ≤ a → u.image.live.read a = s.image.live.read a) ∧
      u.image.staging = s.image.staging ∧ u.link = s.link ∧ u.areas = s.areas ∧ u.window = s.window) ∧
  (∀ (k : Fin 30) (r : Reply) (s : State), (s.moduleAt k).state.inService = true →
    let m := s.moduleAt k
    let status := r.payload.headD 0#8
    takeScan k (.reply (some r)) s =
      { s.setModule k { m with failCount := 0, state := .present, age := 0, refreshed := true, status := status } with
        image := { s.image with live := s.image.live.writeBytes m.inOffset.toNat (r.payload.drop 1) }
        notices := if (m.status ^^^ status) &&& m.watchMask = 0#8 then s.notices
          else s.notices.offer s.sched.cycleCounter (.moduleStatus k m.status status) })

/-- A CANCEL outcome for a module in service with its cancel pending. ACCEPT and REFUSE free it, HOLD counts, an echo
fault keeps all; TIMEOUT, CORRUPT and STRAY keep the cancel pending and count a failure. HOLD at the hold limit loses
the module with CANCEL_FAILED and old state PRESENT, a failure at the threshold loses it with FAILURES: state LOST,
the threshold's count, no holder, no waiting list; MODULE_STATE, then the SLOT_ENDED of the waiting slots in list
order, each FAILED with MODULE_LOST. HOLD and the three errors put the address into the cancel-deferred set, which
holds it once (R52, R67, R68, R69, R76, R84, R85, R86, R124). -/
def Obligations.CancelOutcomeSettlesTheHolder : Prop :=
  ∀ (k : Fin 30) (tag : Half) (p : List Byte) (b : Bool) (s : State), (s.moduleAt k).state.inService = true →
    (s.moduleAt k).holder = .cancelPending tag →
    let m := s.moduleAt k
    let deferred : Scheduler := { s.sched with
      cancelDeferred := if k ∈ s.sched.cancelDeferred then s.sched.cancelDeferred else s.sched.cancelDeferred ++ [k] }
    let frame := fun t : State => t.sched = deferred ∧ otherModulesKept k s t ∧ t.image = s.image ∧
      t.areas = s.areas ∧ t.link = s.link ∧ t.line = s.line ∧ t.window = s.window
    let lost := fun (old : ModuleState) (cause : ModuleCause) (t : State) =>
      t.moduleAt k = { m with
        state := .lost, failCount := s.link.threshold.toNat, holder := .none, cancelHold := 0, waiting := [] } ∧
      (∀ n, t.slotAt n = if n ∈ m.waiting then
          { s.slotAt n with
            state := .failed
            run := { (s.slotAt n).run with condition := .moduleLost, waitArea := false, deferred := false } }
        else s.slotAt n) ∧
      t.notices = NoticeUnit.offerAll s.sched.cycleCounter
        (.moduleState k old .lost cause ::
          m.waiting.map (fun j => .slotEnded j .failed .moduleLost (s.slotAt j).run.abortRequested)) s.notices
    (∀ kind : ReplyKind, kind = .accept ∨ kind = .refuse →
      takeCancel k (.reply (some { kind := kind, payload := p, seqBit := b })) s =
        s.setModule k { m with failCount := 0, state := .present, holder := .none, cancelHold := 0 }) ∧
    (let t := takeCancel k (.reply (some { kind := .hold, payload := p, seqBit := b })) s
     let count := min 255 (m.cancelHold + 1)
     frame t ∧
     (s.exch.holdLimit = 0#8 ∨ count < s.exch.holdLimit.toNat →
       t.moduleAt k = { m with failCount := 0, state := .present, cancelHold := count } ∧
       t.notices = s.notices ∧ t.exch = s.exch) ∧
     (s.exch.holdLimit ≠ 0#8 → s.exch.holdLimit.toNat ≤ count → lost .present .cancelFailed t)) ∧
    takeCancel k .echoFault s = s ∧
    (∀ o : TxnOutcome, o = .timeout ∨ o = .corrupt ∨ o = .stray →
      let t := takeCancel k o s
      frame t ∧
      (m.failCount + 1 < s.link.threshold.toNat →
        t.moduleAt k = { m with failCount := m.failCount + 1, state := .suspect } ∧
        t.exch = s.exch ∧ t.notices = s.notices) ∧
      (s.link.threshold.toNat ≤ m.failCount + 1 → lost m.state .failures t))

/-! ### Exchange slots -/

/-- POST of the selected slot: the checks in their order, each with its result; when all pass, the run-time fields are
cleared, the area of a WRITE or READ is bound, the slot is QUEUED at the tail of its module's list, and nothing else
changes (R111, R117, R118, R136). -/
def Obligations.PostChecksThenQueues : Prop :=
  ∀ s : State, s.atCommand .slots = true →
    let n := s.exch.subject
    let x := s.selSlot
    let h := x.host
    let r := s.areaAt h.area
    let fields := 1 ≤ h.moduleAddr.toNat ∧ h.moduleAddr.toNat ≤ 30 ∧ h.kind.toNat ≤ 2 ∧
      (h.kind = 0#8 ↔ h.declared = 0#16) ∧ 1 ≤ h.pieceLimit.toNat ∧ h.pieceLimit.toNat ≤ 64 ∧
      4 ≤ h.blockLength.toNat ∧ h.blockLength.toNat ≤ 16
    (x.state ≠ .free → exec .post s = .next (answered .slots 1#8 .wrongState s)) ∧
    (x.state = .free → ¬ fields → exec .post s = .next (answered .slots 1#8 .badArgument s)) ∧
    ∀ k : Fin 30, x.state = .free → fields → h.moduleAddr.toNat = moduleAddress k →
      ((s.moduleAt k).state.takesSlots = false → exec .post s = .next (answered .slots 1#8 .absent s)) ∧
      ((s.moduleAt k).state.takesSlots = true → h.kind ≠ 0#8 → r.binding ≠ none →
        exec .post s = .next (answered .slots 1#8 .areaBusy s)) ∧
      ((s.moduleAt k).state.takesSlots = true → h.kind ≠ 0#8 → r.binding = none → r.size = 0 →
        exec .post s = .next (answered .slots 1#8 .noRoom s)) ∧
      ((s.moduleAt k).state.takesSlots = true → (h.kind = 0#8 ∨ (r.binding = none ∧ r.size ≠ 0)) → ∃ t : State,
        exec .post s = .next (answered .slots 1#8 .accepted t) ∧
        t.slotAt n = { x with state := .queued, run := SlotRun.cleared } ∧
        t.moduleAt k = { s.moduleAt k with waiting := (s.moduleAt k).waiting ++ [n] } ∧
        t.areaAt h.area = { r with binding := (if h.kind = 0#8 then r.binding
          else some { slot := n, direction := if h.kind = 1#8 then .write else .read }) } ∧
        otherSlotsKept n s t ∧ otherModulesKept k s t ∧ otherAreasKept h.area s t ∧
        t.areas.memory = s.areas.memory ∧ t.areas.staged = s.areas.staged ∧ t.areas.subject = s.areas.subject ∧
        t.exch.subject = n ∧ t.table.subject = s.table.subject ∧ t.exch.retryLimit = s.exch.retryLimit ∧
        t.exch.holdLimit = s.exch.holdLimit ∧ t.line = s.line ∧ t.link = s.link ∧ t.sched = s.sched ∧
        t.image = s.image ∧ t.notices = s.notices ∧ t.window = s.window)

/-- RETIRE of an ended slot frees it with its fields cleared and its area unbound, leaving the cancel of an ABORTED slot
with a recorded phase at the module it holds. RESTART of a DONE or FAILED slot, or of one aborted from QUEUED, answers
ABSENT where its module takes no slot, else clears the fields and queues the slot at the tail. In every other state
either is WRONG_STATE and changes nothing (R82, R111, R120, R121). -/
def Obligations.EndedSlotRetiredOrRestarted : Prop :=
  (∀ s : State, s.atCommand .slots = true →
    let n := s.exch.subject
    let x := s.selSlot
    let owed := x.state = .aborted ∧ x.run.recordedPhase ≠ .none
    (x.state.ended = false → exec .retire s = .next (answered .slots 2#8 .wrongState s)) ∧
    (x.state.ended = true → ∃ t : State, exec .retire s = .next (answered .slots 2#8 .accepted t) ∧
      t.slotAt n = { x with state := .free, run := SlotRun.cleared } ∧ otherSlotsKept n s t ∧
      (x.host.kind = 1#8 ∨ x.host.kind = 2#8 →
        t.areaAt x.host.area = { s.areaAt x.host.area with binding := none } ∧ otherAreasKept x.host.area s t) ∧
      (x.host.kind ≠ 1#8 → x.host.kind ≠ 2#8 → t.areas = s.areas) ∧
      (¬ owed → t.table = s.table) ∧
      (owed → ∀ k : Fin 30, x.host.moduleAddr.toNat = moduleAddress k → (s.moduleAt k).holder = .slot n →
        t.moduleAt k = { s.moduleAt k with holder := .cancelPending x.host.tag, cancelHold := 0 } ∧
        otherModulesKept k s t) ∧
      t.areas.memory = s.areas.memory ∧ t.line = s.line ∧ t.link = s.link ∧ t.sched = s.sched ∧ t.image = s.image ∧
      t.notices = s.notices ∧ t.window = s.window)) ∧
  (∀ s : State, s.atCommand .slots = true →
    let n := s.exch.subject
    let x := s.selSlot
    let may := x.state = .done ∨ x.state = .failed ∨ (x.state = .aborted ∧ x.run.recordedPhase = .none)
    (¬ may → exec .restart s = .next (answered .slots 3#8 .wrongState s)) ∧
    ∀ k : Fin 30, may → x.host.moduleAddr.toNat = moduleAddress k →
      ((s.moduleAt k).state.takesSlots = false → exec .restart s = .next (answered .slots 3#8 .absent s)) ∧
      ((s.moduleAt k).state.takesSlots = true → ∃ t : State,
        exec .restart s = .next (answered .slots 3#8 .accepted t) ∧
        t.slotAt n = { x with state := .queued, run := SlotRun.cleared } ∧
        t.moduleAt k = { s.moduleAt k with waiting := (s.moduleAt k).waiting ++ [n] } ∧
        otherSlotsKept n s t ∧ otherModulesKept k s t ∧ t.areas = s.areas ∧ t.line = s.line ∧ t.link = s.link ∧
        t.sched = s.sched ∧ t.image = s.image ∧ t.notices = s.notices ∧ t.window = s.window))

/-- ABORT by slot state: out of the queue, between transactions, or pending over a request in flight; elsewhere
WRONG_STATE (R122, R123, R160, R161, R162). -/
def Obligations.AbortBySlotState : Prop :=
  ∀ s : State, s.atCommand .slots = true →
    let n := s.exch.subject
    let x := s.selSlot
    (x.state = .queued → ∀ k : Fin 30, x.host.moduleAddr.toNat = moduleAddress k → ∃ t : State,
      exec .abort s = .next (answered .slots 4#8 .accepted t) ∧
      t.slotAt n = { x with
        state := .aborted
        run := { x.run with recordedPhase := .none, condition := .none, waitArea := false, deferred := false,
                            abortRequested := false } } ∧
      t.moduleAt k = { s.moduleAt k with waiting := (s.moduleAt k).waiting.filter (· != n) } ∧
      t.notices = s.notices.offer s.sched.cycleCounter (.slotEnded n .aborted .none false) ∧
      otherSlotsKept n s t ∧ otherModulesKept k s t ∧ t.areas = s.areas ∧ t.line = s.line ∧ t.sched = s.sched ∧
      t.link = s.link ∧ t.image = s.image) ∧
    (∀ p : Phase, p ≠ .none → x.state = p.state → x.inFlight = none → exec .abort s =
      .next (answered .slots 4#8 .accepted ((s.setSlot n { x with
        state := .aborted
        run := { x.run with recordedPhase := p, condition := .none, waitArea := false, deferred := false,
                            abortRequested := false } }).offer (.slotEnded n .aborted .none false)))) ∧
    (x.state.inPhase = true → x.inFlight ≠ none → exec .abort s = .next (answered .slots 4#8 .accepted
      (s.setSlot n { x with state := .abortPending, run := { x.run with abortRequested := true } }))) ∧
    (x.state ≠ .queued → x.state.inPhase = false → exec .abort s = .next (answered .slots 4#8 .wrongState s))

/-- RESUME of an ABORTED slot: back to its recorded phase, or with phase NONE to the tail of the queue, or ABSENT;
elsewhere WRONG_STATE (R166, R167). -/
def Obligations.ResumeByRecordedPhase : Prop :=
  ∀ s : State, s.atCommand .slots = true →
    let n := s.exch.subject
    let x := s.selSlot
    let run : SlotRun := { x.run with errCount := 0, holdCount := 0, deferred := false, abortRequested := false }
    (x.state ≠ .aborted → exec .resume s = .next (answered .slots 5#8 .wrongState s)) ∧
    (∀ p : Phase, x.state = .aborted → x.run.recordedPhase = p → p ≠ .none →
      exec .resume s = .next (answered .slots 5#8 .accepted (s.setSlot n { x with state := p.state, run := run }))) ∧
    ∀ k : Fin 30, x.state = .aborted → x.run.recordedPhase = .none → x.host.moduleAddr.toNat = moduleAddress k →
      ((s.moduleAt k).state.takesSlots = false → exec .resume s = .next (answered .slots 5#8 .absent s)) ∧
      ((s.moduleAt k).state.takesSlots = true → ∃ t : State,
        exec .resume s = .next (answered .slots 5#8 .accepted t) ∧
        t.slotAt n = { x with state := .queued, run := run } ∧
        t.moduleAt k = { s.moduleAt k with waiting := (s.moduleAt k).waiting ++ [n] } ∧
        otherSlotsKept n s t ∧ otherModulesKept k s t ∧ t.areas = s.areas ∧ t.line = s.line ∧ t.link = s.link ∧
        t.sched = s.sched ∧ t.image = s.image ∧ t.notices = s.notices ∧ t.window = s.window)

/-- The outcomes that advance a slot in its phase: ACCEPT of OPEN, ACCEPT of a PUT of e bytes, an accepted DATA reply;
in each the request in flight is gone and both counts are 0. The header's sequence bit counts in DATA alone (R5, R141,
R147, R148, R151). -/
def Obligations.SlotAdvancesOnAccept : Prop :=
  ∀ (n : Fin 8) (e : Nat) (bit header : Bool) (p : List Byte) (s : State),
    let x := s.slotAt n
    let a := x.host.area
    let r := s.areaAt a
    (x.state = .opening → x.inFlight = some .openExchange →
      takeSlotOutcome n (.reply (some { kind := .accept, payload := [], seqBit := header })) s =
        s.setSlot n { x with
          state := if x.host.declared = 0#16 then .closing else .transferring
          run := { x.run with
            recordedPhase := if x.host.declared = 0#16 then .closing else .transferring
            putSeq := false, fetchSeq := false, holdCount := 0, errCount := 0 }
          inFlight := none }) ∧
    (x.state = .transferring → x.run.recordedPhase = .transferring → x.inFlight = some (.put e bit) →
      let last := x.run.bytesMoved + e = x.host.declared.toNat
      let t := takeSlotOutcome n (.reply (some { kind := .accept, payload := [], seqBit := header })) s
      t.slotAt n = { x with
        state := if last then .closing else .transferring
        run := { x.run with
          recordedPhase := if last then .closing else .transferring
          bytesMoved := x.run.bytesMoved + e, putSeq := !bit, holdCount := 0, errCount := 0 }
        inFlight := none } ∧
      t.areaAt a = { r with oldest := (r.oldest + e) % r.size, fill := r.fill - e } ∧
      t.areas.memory = s.areas.memory ∧ otherSlotsKept n s t ∧ otherAreasKept a s t ∧ t.table = s.table ∧
      t.notices = s.notices) ∧
    (x.state = .transferring → x.run.recordedPhase = .transferring → x.inFlight = some (.fetch e bit) →
      p.length ≤ e →
      let last := p.length < e ∨ x.run.bytesMoved + p.length = x.host.declared.toNat
      let t := takeSlotOutcome n (.reply (some { kind := .data, payload := p, seqBit := bit })) s
      t.slotAt n = { x with
        state := if last then .closing else .transferring
        run := { x.run with
          recordedPhase := if last then .closing else .transferring
          bytesMoved := x.run.bytesMoved + p.length, fetchSeq := !x.run.fetchSeq, holdCount := 0, errCount := 0,
          short := if p.length < e then true else x.run.short }
        inFlight := none } ∧
      t.areaAt a = { r with fill := r.fill + p.length } ∧
      t.areas.memory = r.place s.areas.memory p ∧ otherSlotsKept n s t ∧ otherAreasKept a s t ∧ t.table = s.table ∧
      t.notices = s.notices)

/-- A HOLD, an error or an echo fault leaves the slot to repeat its request: the counts and the deferral mark move as
the rules say while the limits are not reached, and nothing else does; the sequence bit of a HOLD is discarded (R5,
R150, R153, R155, R156, R157). -/
def Obligations.SlotRepeatsAfterHoldOrError : Prop :=
  ∀ (n : Fin 8) (q : SlotRequest) (header : Bool) (s : State),
    let x := s.slotAt n
    let error := fun (e : ErrorKind) => s.setSlot n { x with
      run := { x.run with errCount := x.run.errCount + 1, lastError := e, deferred := true }
      inFlight := none }
    x.state.inPhase = true → x.inFlight = some q →
      ((s.exch.holdLimit = 0#8 ∨ min 255 (x.run.holdCount + 1) < s.exch.holdLimit.toNat) →
        takeSlotOutcome n (.reply (some { kind := .hold, payload := [], seqBit := header })) s =
          s.setSlot n { x with
            run := { x.run with errCount := 0, holdCount := min 255 (x.run.holdCount + 1), deferred := true }
            inFlight := none }) ∧
      (x.run.errCount + 1 < s.exch.retryLimit.toNat →
        takeSlotOutcome n .timeout s = error .timeout ∧ takeSlotOutcome n .corrupt s = error .corrupt ∧
        takeSlotOutcome n .stray s = error .stray ∧
        ∀ (e : Nat) (bit : Bool) (p : List Byte), q = .fetch e bit → p.length ≤ e →
          takeSlotOutcome n (.reply (some { kind := .data, payload := p, seqBit := !bit })) s = error .seqSlip) ∧
      takeSlotOutcome n .echoFault s = s.setSlot n { x with inFlight := none }

/-- The endings of a slot in a phase that holds its module, whatever the header's sequence bit of HOLD, REFUSE and
RESULT: each with its state, its condition, what it records, its notice, and the module free or left with a cancel.
RETRIES comes at the retry limit with TIMEOUT, CORRUPT, STRAY or SEQ_SLIP, whichever the error is (R5, R149, R150,
R152 to R155, R158). -/
def Obligations.SlotEndingsSettleTheHolder : Prop :=
  ∀ (n : Fin 8) (k : Fin 30) (q : SlotRequest) (o : TxnOutcome) (c : Condition) (run : SlotRun) (header : Bool)
    (s : State),
    let x := s.slotAt n
    let isError := fun e : ErrorKind => match e with
      | .none => False
      | .timeout => o = .timeout
      | .corrupt => o = .corrupt
      | .stray => o = .stray
      | .seqSlip => ∃ (a : Nat) (bit : Bool) (p : List Byte), q = .fetch a bit ∧ p.length ≤ a ∧
          o = .reply (some { kind := .data, payload := p, seqBit := !bit })
    x.state.inPhase = true → x.inFlight = some q → x.host.moduleAddr.toNat = moduleAddress k →
    (s.moduleAt k).holder = .slot n →
    ((∃ reason : Byte, o = .reply (some { kind := .refuse, payload := [reason], seqBit := header }) ∧ c = .refused ∧
        run = { x.run with refuseReason := reason }) ∨
     (o = .reply (some { kind := .hold, payload := [], seqBit := header }) ∧ c = .holdExpired ∧
        s.exch.holdLimit ≠ 0#8 ∧ s.exch.holdLimit.toNat ≤ min 255 (x.run.holdCount + 1) ∧
        run = { x.run with errCount := 0, holdCount := min 255 (x.run.holdCount + 1) }) ∨
     (∃ e : ErrorKind, isError e ∧ c = .retries ∧ s.exch.retryLimit.toNat ≤ x.run.errCount + 1 ∧
        run = { x.run with errCount := x.run.errCount + 1, lastError := e }) ∨
     (∃ (e : Nat) (bit b : Bool) (p : List Byte), q = .fetch e bit ∧ e < p.length ∧
        o = .reply (some { kind := .data, payload := p, seqBit := b }) ∧ c = .longData ∧ run = x.run) ∨
     (∃ p : List Byte, q = .close ∧ o = .reply (some { kind := .result, payload := p, seqBit := header }) ∧
        c = .resultBad ∧ run = x.run ∧
        ¬ (p.length = 8 ∧ p.getD 0 0#8 = 0xC3#8 ∧ halfOf (p.getD 1 0#8) (p.getD 2 0#8) = x.host.tag)) ∨
     (∃ code r0 r1 d0 d1 : Byte, q = .close ∧
        o = .reply (some
          { kind := .result
            payload := [0xC3#8, hiByte x.host.tag, loByte x.host.tag, code, r0, r1, d0, d1]
            seqBit := header }) ∧
        c = (if code = 0#8 then .ok else .resultError) ∧
        run = { x.run with errCount := 0, holdCount := 0, resultCode := code, residue := halfOf r0 r1,
                           detail := halfOf d0 d1 })) →
    let t := takeSlotOutcome n o s
    t.slotAt n = { x with
      state := if c = .ok then .done else .failed
      run := { run with condition := c, waitArea := false, deferred := false }
      inFlight := none } ∧
    t.moduleAt k = (if c = .ok ∨ c = .refused ∨ c = .resultError then { s.moduleAt k with holder := .none }
      else { s.moduleAt k with holder := .cancelPending x.host.tag, cancelHold := 0 }) ∧
    t.notices = s.notices.offer s.sched.cycleCounter
      (.slotEnded n (if c = .ok then .done else .failed) c x.run.abortRequested) ∧
    t.areas = s.areas ∧ otherSlotsKept n s t ∧ otherModulesKept k s t ∧ t.line = s.line ∧ t.sched = s.sched

/-- The end of the transaction of a slot in ABORT_PENDING. Chapter 8 applies the outcome with the recorded phase
standing for the state; an ending it makes stands, abort-requested set; a slot it does not end is ABORTED with the
recorded phase the outcome left and abort-requested set, and offers its SLOT_ENDED; ABANDONED only takes the request
away. With Table 9-2: the phase and the changes for ACCEPT of OPEN, HOLD below the hold limit, an error below the
retry limit, and ECHO_FAULT, the sequence bit of ACCEPT and HOLD discarded (R5, R122, R123, R146, R163, R165). -/
def Obligations.AbortPendingResolved : Prop :=
  ∀ (n : Fin 8) (p : Phase) (q : SlotRequest) (s : State),
    let x := s.slotAt n
    let aborted := fun run : SlotRun => ((s.setSlot n { x with
      state := .aborted
      run := { run with condition := .none, waitArea := false, deferred := false }
      inFlight := none }).offer (.slotEnded n .aborted .none true))
    x.state = .abortPending → x.run.recordedPhase = p → p ≠ .none → x.inFlight = some q →
    x.run.abortRequested = true →
      (∀ o : TxnOutcome, o ≠ .abandoned →
        let u := takeSlotOutcome n o (s.setSlot n { x with state := p.state })
        let t := takeSlotOutcome n o s
        ((u.slotAt n).state.ended = true → t = u ∧ (u.slotAt n).run.abortRequested = true) ∧
        ((u.slotAt n).state.ended = false → t = (u.setSlot n { u.slotAt n with
          state := .aborted
          run := { (u.slotAt n).run with condition := .none, waitArea := false, deferred := false } }).offer
            (.slotEnded n .aborted .none true) ∧ (u.slotAt n).run.abortRequested = true)) ∧
      takeSlotOutcome n .abandoned s = s.setSlot n { x with inFlight := none } ∧
      (∀ b : Bool, q = .openExchange →
        takeSlotOutcome n (.reply (some { kind := .accept, payload := [], seqBit := b })) s = aborted
          { x.run with
            recordedPhase := if x.host.declared = 0#16 then .closing else .transferring
            putSeq := false, fetchSeq := false, holdCount := 0, errCount := 0 }) ∧
      (∀ b : Bool, s.exch.holdLimit = 0#8 ∨ min 255 (x.run.holdCount + 1) < s.exch.holdLimit.toNat →
        takeSlotOutcome n (.reply (some { kind := .hold, payload := [], seqBit := b })) s = aborted
          { x.run with errCount := 0, holdCount := min 255 (x.run.holdCount + 1) }) ∧
      (x.run.errCount + 1 < s.exch.retryLimit.toNat →
        takeSlotOutcome n .timeout s = aborted { x.run with errCount := x.run.errCount + 1, lastError := .timeout } ∧
        takeSlotOutcome n .corrupt s = aborted { x.run with errCount := x.run.errCount + 1, lastError := .corrupt } ∧
        takeSlotOutcome n .stray s = aborted { x.run with errCount := x.run.errCount + 1, lastError := .stray }) ∧
      takeSlotOutcome n .echoFault s = aborted x.run

/-! ### Data areas -/

/-- The staged table keeps a byte as written and has no effect on the areas; CONFIGURE checks the bindings, then the
total, and lays the areas out in order and empty. FLUSH empties the selected area when it is unbound or its slot is
DONE or FAILED, and keeps the binding; otherwise IN_USE and nothing else (R129, R130, R131, R135). -/
def Obligations.AreasStagedConfiguredFlushed : Prop :=
  (∀ (v : Byte) (a : Fin 4) (s : State), s.atReg (.staged a) → exec (.stagedSizeWrite v) s =
    .next (stepped { s with areas := { s.areas with staged := s.areas.staged.set a v } })) ∧
  (∀ s : State, s.atCommand .areas = true →
    let z := fun a : Fin 4 => s.areas.staged[a].toNat
    ((∃ a, (s.areaAt a).binding ≠ none) → exec .configure s = .next (answered .areas 1#8 .inUse s)) ∧
    ((∀ a, (s.areaAt a).binding = none) → 64 < z 0 + z 1 + z 2 + z 3 →
      exec .configure s = .next (answered .areas 1#8 .badArgument s)) ∧
    ((∀ a, (s.areaAt a).binding = none) → z 0 + z 1 + z 2 + z 3 ≤ 64 → ∃ t : State,
      exec .configure s = .next (answered .areas 1#8 .accepted t) ∧
      t = { s with areas := { s.areas with records := t.areas.records } } ∧
      t.areaAt 0 = { size := 64 * z 0, start := 0, fill := 0, oldest := 0, binding := none } ∧
      t.areaAt 1 = { size := 64 * z 1, start := 64 * z 0, fill := 0, oldest := 0, binding := none } ∧
      t.areaAt 2 = { size := 64 * z 2, start := 64 * (z 0 + z 1), fill := 0, oldest := 0, binding := none } ∧
      t.areaAt 3 = { size := 64 * z 3, start := 64 * (z 0 + z 1 + z 2), fill := 0, oldest := 0, binding := none })) ∧
  (∀ s : State, s.atCommand .areas = true →
    let a := s.areas.subject
    let r := s.selArea
    (r.binding = none ∨ (∃ b, r.binding = some b ∧
        ((s.slotAt b.slot).state = .done ∨ (s.slotAt b.slot).state = .failed)) →
      exec .flush s = .next (answered .areas 2#8 .accepted (s.setArea a { r with fill := 0, oldest := 0 }))) ∧
    (∀ b, r.binding = some b → (s.slotAt b.slot).state ≠ .done → (s.slotAt b.slot).state ≠ .failed →
      exec .flush s = .next (answered .areas 2#8 .inUse s)))

/-- The data port: a write is refused for a READ binding, then for a full area, else it goes behind the newest byte; a
read is refused for a WRITE binding, then for an empty area, else it gives and removes the oldest byte. INDEX stays and
no other byte of data memory changes (R133, R134, R181). -/
def Obligations.DataPortMovesTheRing : Prop :=
  ∀ (v : Byte) (s : State), s.atReg .dataPort → s.areasInside = true → s.areas.memory.wf →
    let a := s.areas.subject
    let r := s.selArea
    let close := fun (t : State) => { t with window := { t.window with latch := none } }
    let reading := ∃ b, r.binding = some b ∧ b.direction = .read
    let writing := ∃ b, r.binding = some b ∧ b.direction = .write
    let tail := r.start + (r.oldest + r.fill) % r.size
    (reading → exec (.dataPortWrite v) s = .next (close (erred .wrongState s))) ∧
    (¬ reading → r.size ≤ r.fill → exec (.dataPortWrite v) s = .next (close (erred .areaFull s))) ∧
    (¬ reading → r.fill < r.size → ∃ m : Memory,
      exec (.dataPortWrite v) s = .next (close
        ({ s with areas := { s.areas with memory := m } }.setArea a { r with fill := r.fill + 1 })) ∧
      m.wf ∧ m.read tail = v ∧ ∀ b, b ≠ tail → m.read b = s.areas.memory.read b) ∧
    (writing → exec .dataPortRead s = .next (close ((erred .wrongState s).returns 0#8))) ∧
    (¬ writing → r.fill = 0 → exec .dataPortRead s = .next (close ((erred .areaEmpty s).returns 0#8))) ∧
    (¬ writing → 0 < r.fill → exec .dataPortRead s = .next (close
      ((s.setArea a { r with oldest := (r.oldest + 1) % r.size, fill := r.fill - 1 }).returns
        (s.areas.memory.read (r.start + r.oldest % r.size)))))

/-! ### Notices, events and interrupt lines -/

/-- An offer to a queue with room is appended with the cycle number and raises NOTICE_WAITING when it is the first; an
offer to a full queue is lost: NOTICE_LOST at the first loss, then the count up to 255, then the overflow flag. An entry
of an enabled kind owes one pulse up to 15, a raise of a pending kind owes none; a pulse takes one off the count as ATTN
goes high, and its end returns ATTN low (R171, R172, R173, R175, R177). -/
def Obligations.NoticesQueuedAndPulsesOwed : Prop :=
  (∀ (b : NoticeBody) (s : State),
    let n := s.notices
    let t := (s.offer b).notices
    (n.queue = [] → t = ({ n with queue := [{ body := b, cycle := s.sched.cycleCounter }] }).raise .noticeWaiting) ∧
    (n.queue ≠ [] → n.queue.length < 32 →
      t = { n with queue := n.queue ++ [{ body := b, cycle := s.sched.cycleCounter }] }) ∧
    (32 ≤ n.queue.length →
      (n.lostCount = 0 → t = { n.raise .noticeLost with lostCount := 1 }) ∧
      (0 < n.lostCount → n.lostCount < 255 → t = { n with lostCount := n.lostCount + 1 }) ∧
      (255 ≤ n.lostCount → t = { n with overflow := true }))) ∧
  (∀ (k : EventKind) (n : NoticeUnit),
    (hasKind n.events k = true → n.raise k = n) ∧
    (hasKind n.events k = false →
      (n.raise k).events = n.events ||| k.mask ∧
      (n.raise k).attnOwed = (if hasKind n.attnEnable k = true ∧ n.attnOwed < 15 then n.attnOwed + 1 else n.attnOwed))) ∧
  (∀ s : State, s.notices.attnLine = false → 0 < s.notices.attnOwed → exec .attnPulseStart s =
    .next { s with notices := { s.notices with attnLine := true, attnOwed := s.notices.attnOwed - 1 } }) ∧
  (∀ s : State, exec .attnPulseEnd s = .next { s with notices := { s.notices with attnLine := false } })

/-- The commands of GLOBAL, IMAGE and NOTICES: CLEAR_ERROR empties the error record and leaves the pending set; COMMIT,
SNAPSHOT, FREEZE and RELEASE set and clear their flags in every link state or answer WRONG_STATE; POP takes the head
record, the last one with NOTICE_WAITING, and is refused on an empty queue; CLEAR_LOST clears the lost count and the
overflow flag. Each unit defines the codes of Table 11-3, from 01h on, and a DATA write of one at COMMAND is the row of
that command; a code it does not define is the row UNKNOWN_COMMAND, is answered so and changes nothing else (R96, R97,
R101, R173, R174, R183, R184). -/
def Obligations.ShortCommandsAnswered : Prop :=
  (∀ (u : UnitId) (code : Byte),
    let defined : List Instr := match u with
      | .global => [.clearError]
      | .link => [.start, .run, .stop, .shutdown]
      | .cycle => []
      | .modules => [.expect, .adopt, .forget, .disable, .enable]
      | .image => [.commit, .snapshot, .freeze, .release]
      | .slots => [.post, .retire, .restart, .abort, .resume]
      | .areas => [.configure, .flush]
      | .notices => [.pop, .clearLost]
    (definesCommand u code = true ↔ 1 ≤ code.toNat ∧ code.toNat ≤ defined.length) ∧
    ∀ s : State, s.atCommand u = true → dataWriteRow s code =
      if code = 0#8 then .unknownCommand code else (defined[code.toNat - 1]?).getD (.unknownCommand code)) ∧
  (∀ (u : UnitId) (code : Byte) (s : State), s.atCommand u = true → definesCommand u code = false →
    exec (.unknownCommand code) s = .next (answered u code .unknownCommand s)) ∧
  (∀ s : State, s.atCommand .global = true →
    exec .clearError s = .next (answered .global 1#8 .accepted
      { s with window := { s.window with error := { cause := .none, unit := 0#8, index := 0#8, more := false } } })) ∧
  (∀ s : State, s.atCommand .image = true →
    exec .commit s = .next (answered .image 1#8 .accepted { s with image := { s.image with commitPending := true } }) ∧
    exec .snapshot s = .next (if s.image.follow then answered .image 2#8 .wrongState s
      else answered .image 2#8 .accepted { s with image := { s.image with snapshotPending := true } }) ∧
    exec .freeze s = .next (if s.image.freeze then answered .image 3#8 .wrongState s
      else answered .image 3#8 .accepted { s with image := { s.image with freeze := true } }) ∧
    exec .release s = .next (if s.image.freeze then
        answered .image 4#8 .accepted { s with image := { s.image with freeze := false } }
      else answered .image 4#8 .wrongState s)) ∧
  (∀ s : State, s.atCommand .notices = true →
    (s.notices.queue = [] → exec .pop s = .next (answered .notices 1#8 .wrongState s)) ∧
    (∀ r, s.notices.queue = [r] → exec .pop s = .next (answered .notices 1#8 .accepted
      { s with notices := { s.notices with
          queue := []
          events := s.notices.events &&& 0xFE#8
          intLine := decide (s.notices.events &&& 0xFE#8 &&& s.notices.intEnable ≠ 0#8) } })) ∧
    (∀ r r' rest, s.notices.queue = r :: r' :: rest → exec .pop s = .next (answered .notices 1#8 .accepted
      { s with notices := { s.notices with queue := r' :: rest } })) ∧
    exec .clearLost s = .next (answered .notices 2#8 .accepted
      { s with notices := { s.notices with lostCount := 0, overflow := false } }))

/-- The registers whose writes are taken at any time: a staging byte, FOLLOW and the commit deadline, each changing
itself alone; the clearing register, which removes each named kind but NOTICE_WAITING; the two enable sets, which keep
bit 7 as 0. INT follows at once, and no pulse is owed by any of them (R95, R99, R104, R106, R175, R176, R177). -/
def Obligations.AlwaysTakenWrites : Prop :=
  (∀ (v : Byte) (s : State),
    (∀ j : Fin 64, s.atReg (.imageByte j) → s.image.select = 2 → s.image.staging.wf → ∃ m : Memory,
      exec (.stagingWrite v) s = .next (stepped { s with image := { s.image with staging := m } }) ∧ m.wf ∧
      m.read (64 * s.image.page.val + j.val) = v ∧
      ∀ a, a ≠ 64 * s.image.page.val + j.val → m.read a = s.image.staging.read a) ∧
    (s.atReg (.byte .follow) → exec (.followWrite v) s =
      .next (stepped { s with image := { s.image with follow := decide (v ≠ 0#8) } })) ∧
    (s.atReg (.byte .deadline) → exec (.commitDeadlineWrite v) s =
      .next (stepped { s with image := { s.image with deadline := v } }))) ∧
  (∀ (v : Byte) (s : State),
    (s.atReg (.byte .clearing) → exec (.clearingRegisterWrite v) s = .next (stepped
      { s with notices := { s.notices with
          events := s.notices.events &&& ~~~(v &&& 0x7E#8)
          intLine := decide (s.notices.events &&& ~~~(v &&& 0x7E#8) &&& s.notices.intEnable ≠ 0#8) } })) ∧
    (s.atReg (.byte .intEnable) → exec (.intEnableWrite v) s = .next (stepped
      { s with notices := { s.notices with
          intEnable := v &&& 0x7F#8
          intLine := decide (s.notices.events &&& (v &&& 0x7F#8) ≠ 0#8) } })) ∧
    (s.atReg (.byte .attnEnable) → exec (.attnEnableWrite v) s = .next (stepped
      { s with notices := { s.notices with attnEnable := v &&& 0x7F#8 } })))

/-! ### The line -/

/-- A MARK ends in RUNNING, echoed with the echo fault count 0 or with an ECHO_FAULT below the limit: stage SCAN, and
the walk goes on from there or is left due; where the timer expired during it, the whole list is cut, an OVERRUN is
recorded and the next cycle starts late (R13, R19, R43, R46, R48, R49). When the timer expired during it, and the
order of the walk and what comes at the same moment, are the model's reckoning (log entries 9, 10 and 20). -/
def Obligations.MarkEndOpensTheScan : Prop :=
  ∀ (t : Txn) (order : EndOrder) (s : State), s.line.txn = some t → t.kind = .mark → t.address = 31 →
    s.link.state = .running → s.sched.stage = .mark → s.regionsInside = true → s.areasInside = true →
    let ended := fun (d count : Nat) => { s with
      line := { s.line with txn := none, echoFaults := count, lde := true, ltx := .idle }
      sched := { s.sched with timer := s.sched.timer.elapse d, stage := .scan, forSlot := none } }
    let goesOn := fun (d count : Nat) (c : Instr) =>
      (s.sched.timer.elapse d ≠ .expired → order = .decisionFirst → exec c s = .next (walk (ended d count))) ∧
      (s.sched.timer.elapse d ≠ .expired → order = .othersFirst → exec c s = .next (ended d count)) ∧
      (s.sched.timer.elapse d = .expired → ∃ u : State, exec c s = .next u ∧
        u = cycleStart true (cycleEnd .overrun (s.sched.scanLength.toNat - s.sched.scanPos) (ended d count)) ∧
        u.sched.cycleCounter = s.sched.cycleCounter + 1#16 ∧ u.sched.stage = .mark ∧ u.sched.lateStart = true ∧
        u.line.echoFaults = count ∧ u.link = s.link ∧ u.image.live = s.image.live ∧
        u.sched.record =
          { number := s.sched.cycleCounter
            scanned := s.sched.scanned
            cut := s.sched.scanLength.toNat - s.sched.scanPos
            status := .overrun
            late := s.sched.lateStart })
    (t.phase = .sending → goesOn (10 * (6 + t.payload.length)) 0 (.requestEchoed (sentCharacters t.frame) order)) ∧
    (∀ w, t.phase = .settling → t.settling = some .echoFault → 20 ≤ w → s.line.echoFaults < 2 →
      goesOn w (s.line.echoFaults + 1) (.settlingEnd w order))

/-- The events of a transaction in flight: the gap elapses and its characters go out; a request other than MARK read
back whole and equal releases the pair and awaits its reply with the echo fault count 0; the first character read back
that differs releases the pair and settles; a start bit within the window begins the reply; a fault in the reply
settles as CORRUPT. A transaction ends with TIMEOUT at the end of the window, with CORRUPT at the quiet limit, with
ECHO_FAULT or CORRUPT at the end of settling, and by classification of a whole reply; what the end does is
TransactionEndByStage. The characters: the fourth gives the length 6 + payload; a header is faulty with a reserved bit
not 0 or a payload over 64; a reply is whole at its length under a good header, cut short before it; a fault is a stop
bit bad at the last character of a reply without an earlier fault, or a faulty header at the fourth (R4, R10 to R17,
R19, R189). The model's choices here: LTX idle while the driver is off, and the whole request on it while it goes out
(log entry 8); the bit times each event takes off the cycle timer (log entries 9 and 10); nothing received at the
reply's start and the characters kept in SETTLING (log entry 15). -/
def Obligations.LineEventsOfATransaction : Prop :=
  (∀ cs : List Byte,
    let header := fun i : Nat => cs.getD i 0#8
    let faulty := header 0 &&& 0xE0#8 ≠ 0#8 ∨ header 1 &&& 0xE0#8 ≠ 0#8 ∨ header 2 &&& 0xE0#8 ≠ 0#8 ∨
      header 3 &&& 0x80#8 ≠ 0#8 ∨ 64 < (header 3 &&& 0x7F#8).toNat
    let full := 6 + (header 3 &&& 0x7F#8).toNat
    (replyComplete cs = true ↔ 4 ≤ cs.length ∧ ¬ faulty ∧ cs.length = full) ∧
    (replyCutShort cs = true ↔ 1 ≤ cs.length ∧ (4 ≤ cs.length → ¬ faulty ∧ cs.length < full)) ∧
    (receiveFaultMet cs true = true ↔ 1 ≤ cs.length ∧ (4 < cs.length → ¬ faulty ∧ cs.length ≤ full)) ∧
    (receiveFaultMet cs false = true ↔ cs.length = 4 ∧ faulty)) ∧
  ∀ (t : Txn) (s : State), s.line.txn = some t → s.regionsInside = true → s.areasInside = true →
    (t.phase = .gap → exec .gapElapsed s = .next { s with
      line := { s.line with txn := some { t with phase := .sending }, lde := true,
                             ltx := .frame (lineLevels (sentCharacters t.frame)) }
      sched := { s.sched with timer := s.sched.timer.elapse 12 } }) ∧
    (∀ order, t.phase = .sending → t.kind ≠ .mark →
      exec (.requestEchoed (sentCharacters t.frame) order) s = .next { s with
      line := { s.line with txn := some { t with phase := .awaiting }, lde := false, ltx := .idle, echoFaults := 0 }
      sched := { s.sched with timer := s.sched.timer.elapse (10 * (6 + t.payload.length)) } }) ∧
    (∀ (back : List Character) (c : Character), t.phase = .sending → back.length < 6 + t.payload.length →
      back = (sentCharacters t.frame).take back.length → (sentCharacters t.frame)[back.length]? ≠ some c →
      exec (.echoMismatch (back ++ [c])) s = .next { s with
      line := { s.line with
        txn := some { t with phase := .settling, settling := some .echoFault }, lde := false, ltx := .idle }
      sched := { s.sched with timer := s.sched.timer.elapse (10 * (back.length + 1)) } }) ∧
    (∀ w, t.phase = .awaiting → w ≤ s.line.replyWindow.toNat → exec (.replyStart w) s = .next { s with
      line := { s.line with txn := some { t with phase := .receiving, received := [] }, lde := false, ltx := .idle }
      sched := { s.sched with timer := s.sched.timer.elapse w } }) ∧
    (∀ chars bad quiet, t.phase = .receiving → receiveFaultMet chars bad = true →
      exec (.receiveFault chars bad quiet) s = .next { s with
        line := { s.line with
          txn := some { t with phase := .settling, received := chars, settling := some .corrupt }
          lde := false
          ltx := .idle }
        sched := { s.sched with timer := s.sched.timer.elapse (10 * chars.length + quiet) } }) ∧
    (∀ order, t.phase = .awaiting → exec (.replyWindowExpiry order) s =
      .next (endTxn t .timeout order (s.elapse s.line.replyWindow.toNat))) ∧
    (∀ chars quiet order, t.phase = .receiving → replyCutShort chars = true →
      exec (.quietLimitExpiry chars quiet order) s =
        .next (endTxn t .corrupt order (s.elapse (10 * chars.length + quiet + 20)))) ∧
    (∀ w order, t.phase = .settling → t.settling = some .echoFault → 20 ≤ w →
      exec (.settlingEnd w order) s = .next (endTxn t .echoFault order (s.elapse w))) ∧
    (∀ w order, t.phase = .settling → t.settling = some .corrupt → 20 ≤ w →
      exec (.settlingEnd w order) s = .next (endTxn t .corrupt order (s.elapse w))) ∧
    (∀ frame quiet order, t.phase = .receiving → replyComplete frame = true →
      exec (.replyReceived frame quiet order) s =
        .next (endTxn t (classifyReply t frame) order (s.elapse (10 * frame.length + quiet))))

/-- A character is ten bit times on the line: a low start bit, the eight data bits with the least significant first, the
stop bit, which the part sends high; the characters of a frame follow each other with nothing between (R3). A request
has echoed when every character of its frame was read back with all eight data bits the same and a high stop bit, and
its echo has differed when the last character read back is the first that does not match (R11, R12). That
REQUEST_ECHOED and ECHO_MISMATCH sent with other characters are no events and leave the state as it is, is the model's
choice (log entry 3). -/
def Obligations.CharactersOnTheLine : Prop :=
  (∀ c : Character, c.levels.length = 10 ∧ c.levels[0]? = some false ∧ c.levels[9]? = some c.stop ∧
    ∀ i, i < 8 → c.levels[i + 1]? = some (c.data.getLsbD i)) ∧
  (∀ frame : List Byte, (lineLevels (sentCharacters frame)).length = 10 * frame.length ∧
    ∀ (i j : Nat) (b : Byte), frame[i]? = some b → j < 10 → (lineLevels (sentCharacters frame))[10 * i + j]? =
      some (if j = 0 then false else if j = 9 then true else b.getLsbD (j - 1))) ∧
  (∀ (t : Txn) (back : List Character),
    (t.echoedBy back = true ↔ back.length = t.frame.length ∧ ∀ (i : Nat) (c : Character) (b : Byte),
      back[i]? = some c → t.frame[i]? = some b →
        (∀ j, j < 8 → c.data.getLsbD j = b.getLsbD j) ∧ c.stop = true) ∧
    (t.differsAtLast back = true ↔ ∃ (c : Character) (b : Byte), back.getLast? = some c ∧
      t.frame[back.length - 1]? = some b ∧ ¬ (c.data = b ∧ c.stop = true) ∧
      ∀ (i : Nat) (d : Character) (e : Byte), i + 1 < back.length → back[i]? = some d → t.frame[i]? = some e →
        d.data = e ∧ d.stop = true)) ∧
  (∀ (t : Txn) (back : List Character) (order : EndOrder) (s : State), s.line.txn = some t → t.phase = .sending →
    (t.echoedBy back = false → exec (.requestEchoed back order) s = .next s) ∧
    (t.differsAtLast back = false → exec (.echoMismatch back) s = .next s))

/-- The third echo fault in a row: from RUNNING or STOPPING the link enters FAULT with ECHO_LIMIT, the pair is
released, no transaction is in flight, the count stays at 3 and no module keeps a failure count (R19, R20, R32, R35,
R36). LTX idle in FAULT is the model's choice (log entry 8). -/
def Obligations.EchoLimitEntersFault : Prop :=
  ∀ (t : Txn) (w : Nat) (order : EndOrder) (s : State), s.line.txn = some t → t.phase = .settling →
    t.settling = some .echoFault → 20 ≤ w → s.line.echoFaults = 2 → (s.link.state = .running ∨ s.link.state = .stopping) →
    s.regionsInside = true → s.areasInside = true →
    ∃ u : State, exec (.settlingEnd w order) s = .next u ∧
      u.link = { s.link with state := .fault, lastOld := s.link.state, lastNew := .fault, lastCause := .echoLimit } ∧
      u.line = { s.line with txn := none, echoFaults := 3, lde := false, ltx := .idle } ∧
      u.sched.stage = .none ∧ u.sched.timer = .stopped ∧ u.sched.cycleCounter = s.sched.cycleCounter ∧
      u.sched.record = s.sched.record ∧ u.image.live = s.image.live ∧ u.areas = s.areas ∧
      (∀ k, (u.moduleAt k).failCount = 0 ∧ (u.moduleAt k).holder = .none) ∧
      (∀ n, (u.slotAt n).state.endedByLinkDown = false)

/-- R16: a reply of declared length is classified by its check, destination, source, kind and exact length, in this
order; the first test that fails gives the outcome. -/
def Obligations.ReplyClassifiedByFiveTests : Prop :=
  ∀ (t : Txn) (b0 b1 b2 b3 c0 c1 : Byte) (p : List Byte), headerLength b3 = p.length →
    let o := classifyReply t (b0 :: b1 :: b2 :: b3 :: (p ++ [c0, c1]))
    let kind := replyKindOf (b2 &&& 0x0F#8)
    let exact := fun k : ReplyKind => match k with
      | .scanReply => t.exactLength
      | .ident => some 5
      | .accept => some 0
      | .hold => some 0
      | .refuse => some 1
      | .data => none
      | .result => none
    (frameCheck (b0 :: b1 :: b2 :: b3 :: p) ≠ halfOf c0 c1 → o = .corrupt) ∧
    (frameCheck (b0 :: b1 :: b2 :: b3 :: p) = halfOf c0 c1 →
      ((b0 &&& 0x1F#8).toNat ≠ 0 → o = .stray) ∧
      ((b0 &&& 0x1F#8).toNat = 0 → (b1 &&& 0x1F#8).toNat ≠ t.address → o = .stray) ∧
      ((b0 &&& 0x1F#8).toNat = 0 → (b1 &&& 0x1F#8).toNat = t.address →
        ((∀ k, kind = some k → k ∉ t.allowed) → o = .stray) ∧
        (∀ k, kind = some k → k ∈ t.allowed →
          (∀ l, exact k = some l → l ≠ p.length → o = .stray) ∧
          ((∀ l, exact k = some l → l = p.length) →
            o = .reply (some { kind := k, payload := p, seqBit := b2.getLsbD 4 })))))

/-- The frame of a request: the four header bytes, the payload, and the check, high byte first, with the reference value
of the check. The cost of each request kind by its payload length, the reply window and the allowance of Table 1-8, MARK
with no window and no reply; the cost of the cycle's MARK and of a SCAN to a module; and the figures of Table 1-9 at a
reply window of 40 (R5, R6, R21, R189). -/
def Obligations.RequestFramesAndCosts : Prop :=
  (∀ t : Txn, t.address < 32 → t.payload.length ≤ 64 → ∃ body : List Byte,
    body = [BitVec.ofNat 8 t.address, 0#8, (if t.seqBit then 0x10#8 else 0#8) ||| t.kind.code,
      BitVec.ofNat 8 t.payload.length] ++ t.payload ∧
    t.frame = body ++ [hiByte (frameCheck body), loByte (frameCheck body)]) ∧
  frameCheck [0x31#8, 0x32#8, 0x33#8, 0x34#8, 0x35#8, 0x36#8, 0x37#8, 0x38#8, 0x39#8] = 0x29B1#16 ∧
  (∀ w len n : Nat,
    let reply := fun allowance : Nat => 12 + 10 * (6 + len) + w + 10 * (6 + allowance)
    requestCost w .mark len n = 12 + 10 * (6 + len) ∧ requestCost w .scan len n = reply (1 + n) ∧
    requestCost w .probe len n = reply 5 ∧ requestCost w .openExchange len n = reply 1 ∧
    requestCost w .put len n = reply 1 ∧ requestCost w .cancel len n = reply 1 ∧
    requestCost w .fetch len n = reply n ∧ requestCost w .close len n = reply 8) ∧
  (∀ (k : Fin 30) (s : State), markCost s = 92 ∧
    scanCost k s = 12 + 10 * (6 + (s.moduleAt k).outLength.toNat) + s.line.replyWindow.toNat +
      10 * (7 + (s.moduleAt k).inLength.toNat)) ∧
  txnCost 40 2 5 = 242 ∧ txnCost 40 0 9 = 262 ∧ txnCost 40 8 3 = 282 ∧ txnCost 40 64 1 = 822 ∧
  txnCost 40 1 64 = 822 ∧ txnCost 40 13 1 = 312 ∧ txnCost 40 0 8 = 252 ∧ txnCost 40 0 5 = 222 ∧ txnCost 40 2 1 = 202

/-! ### Invariants of every step -/

/-- The state after power-on reset is lawful in every sense below. -/
def Obligations.ResetStateIsLawful : Prop :=
  State.reset.memoriesWf ∧ State.reset.addressingLawful ∧ State.reset.notices.lawful ∧ State.reset.lineLawful ∧
  State.reset.cycleLawful ∧ State.reset.modulesLawful ∧ State.reset.countsLawful ∧ State.reset.exchangesLawful

/-- Every step keeps the four images and the data memory in their canonical form. -/
def Obligations.MemoriesStayCanonical : Prop :=
  ∀ s t : State, s.memoriesWf → step s = .next t → t.memoriesWf

/-- From a state whose regions and areas lie inside their memories, a step neither faults nor is refused: it answers a
next state, of the same kind (R92, R129, R139). -/
def Obligations.StepsNeverStopAndStayAddressed : Prop :=
  ∀ s : State, s.addressingLawful → ∃ t : State, step s = .next t ∧ t.addressingLawful

/-- Every step keeps the laws of the notice unit: the queue of at most 32, the lost count of at most 255, NOTICE_WAITING
exactly while the queue is not empty, INT exactly while a pending kind is enabled (R172, R173, R175, R176, R177). -/
def Obligations.NoticeLawsKept : Prop :=
  ∀ s t : State, s.notices.lawful → step s = .next t → t.notices.lawful

/-- Every step keeps the laws of the line and of the cycle: a transaction in flight in RUNNING and STOPPING alone, the
pins as the link state and the phase say, stage NONE and a stopped timer exactly while no cycle runs, and in RUNNING no
moment without a transaction in stage MARK or after the timer expired (R4, R22, R40, R49, R50, R63). LTX idle with the
driver off, and the whole request on it while it goes out, are the model's choice (log entry 8). -/
def Obligations.LineAndCycleLawsKept : Prop :=
  ∀ s t : State, s.lineLawful → s.cycleLawful → step s = .next t → t.lineLawful ∧ t.cycleLawful

/-- Every step keeps every module record lawful: a holder only in service, waiting slots only where slots are taken, a
mismatch cause exactly in MISMATCH, age 255 out of the ageing states (R74, R82, R83, R88). -/
def Obligations.ModuleRecordLawsKept : Prop :=
  ∀ s t : State, s.modulesLawful → step s = .next t → t.modulesLawful

/-- Every step of a lawful line keeps the counting law of every module and the quiet module states of a link that is
OFF, CHECKING or FAULT (R37, R68). -/
def Obligations.FailureCountLawKept : Prop :=
  ∀ s t : State, s.lineLawful → s.countsLawful → step s = .next t → t.countsLawful

/-- Every step of a lawful line keeps slots, module table, areas and the transaction in flight in agreement: a module's
holder is SLOT n exactly for the slot that holds it, the waiting lists hold each QUEUED slot once and nothing else, the
bindings are those of the WRITE and READ slots that are not FREE, fill is at most size in every area, and a request in
flight is its slot's own and fits its area (R82, R83, R112, R136, R139, R141, R143, R162). -/
def Obligations.ExchangeLawsKept : Prop :=
  ∀ s t : State, s.lineLawful → s.exchangesLawful → step s = .next t → t.exchangesLawful
end

