-- ==== Sys2Proof/Laws/State.lean ====
section
/-! SUPPORT. For each named update of State, each block after it: one lemma a block, true by unfolding. -/

namespace Sys2Proof.Machine

/-! ### State.offer -/

@[simp] theorem State.offer_window (b : NoticeBody) (s : State) : (s.offer b).window = s.window := rfl
@[simp] theorem State.offer_line (b : NoticeBody) (s : State) : (s.offer b).line = s.line := rfl
@[simp] theorem State.offer_link (b : NoticeBody) (s : State) : (s.offer b).link = s.link := rfl
@[simp] theorem State.offer_sched (b : NoticeBody) (s : State) : (s.offer b).sched = s.sched := rfl
@[simp] theorem State.offer_table (b : NoticeBody) (s : State) : (s.offer b).table = s.table := rfl
@[simp] theorem State.offer_image (b : NoticeBody) (s : State) : (s.offer b).image = s.image := rfl
@[simp] theorem State.offer_exch (b : NoticeBody) (s : State) : (s.offer b).exch = s.exch := rfl
@[simp] theorem State.offer_areas (b : NoticeBody) (s : State) : (s.offer b).areas = s.areas := rfl
@[simp] theorem State.offer_notices (b : NoticeBody) (s : State) :
    (s.offer b).notices =
      s.notices.offer s.sched.cycleCounter b := rfl
@[simp] theorem State.offer_pending (b : NoticeBody) (s : State) : (s.offer b).pending = s.pending := rfl

/-! ### State.raise -/

@[simp] theorem State.raise_window (k : EventKind) (s : State) : (s.raise k).window = s.window := rfl
@[simp] theorem State.raise_line (k : EventKind) (s : State) : (s.raise k).line = s.line := rfl
@[simp] theorem State.raise_link (k : EventKind) (s : State) : (s.raise k).link = s.link := rfl
@[simp] theorem State.raise_sched (k : EventKind) (s : State) : (s.raise k).sched = s.sched := rfl
@[simp] theorem State.raise_table (k : EventKind) (s : State) : (s.raise k).table = s.table := rfl
@[simp] theorem State.raise_image (k : EventKind) (s : State) : (s.raise k).image = s.image := rfl
@[simp] theorem State.raise_exch (k : EventKind) (s : State) : (s.raise k).exch = s.exch := rfl
@[simp] theorem State.raise_areas (k : EventKind) (s : State) : (s.raise k).areas = s.areas := rfl
@[simp] theorem State.raise_notices (k : EventKind) (s : State) : (s.raise k).notices = s.notices.raise k := rfl
@[simp] theorem State.raise_pending (k : EventKind) (s : State) : (s.raise k).pending = s.pending := rfl

/-! ### State.windowError -/

@[simp] theorem State.windowError_line (c : WindowCause) (s : State) : (s.windowError c).line = s.line := rfl
@[simp] theorem State.windowError_link (c : WindowCause) (s : State) : (s.windowError c).link = s.link := rfl
@[simp] theorem State.windowError_sched (c : WindowCause) (s : State) : (s.windowError c).sched = s.sched := rfl
@[simp] theorem State.windowError_table (c : WindowCause) (s : State) : (s.windowError c).table = s.table := rfl
@[simp] theorem State.windowError_image (c : WindowCause) (s : State) : (s.windowError c).image = s.image := rfl
@[simp] theorem State.windowError_exch (c : WindowCause) (s : State) : (s.windowError c).exch = s.exch := rfl
@[simp] theorem State.windowError_areas (c : WindowCause) (s : State) : (s.windowError c).areas = s.areas := rfl
@[simp] theorem State.windowError_notices (c : WindowCause) (s : State) :
    (s.windowError c).notices =
      s.notices.raise .windowError := rfl
@[simp] theorem State.windowError_pending (c : WindowCause) (s : State) : (s.windowError c).pending = s.pending := rfl

/-! ### State.setSlot -/

@[simp] theorem State.setSlot_window (n : Fin 8) (x : Slot) (s : State) : (s.setSlot n x).window = s.window := rfl
@[simp] theorem State.setSlot_line (n : Fin 8) (x : Slot) (s : State) : (s.setSlot n x).line = s.line := rfl
@[simp] theorem State.setSlot_link (n : Fin 8) (x : Slot) (s : State) : (s.setSlot n x).link = s.link := rfl
@[simp] theorem State.setSlot_sched (n : Fin 8) (x : Slot) (s : State) : (s.setSlot n x).sched = s.sched := rfl
@[simp] theorem State.setSlot_table (n : Fin 8) (x : Slot) (s : State) : (s.setSlot n x).table = s.table := rfl
@[simp] theorem State.setSlot_image (n : Fin 8) (x : Slot) (s : State) : (s.setSlot n x).image = s.image := rfl
@[simp] theorem State.setSlot_exch (n : Fin 8) (x : Slot) (s : State) :
    (s.setSlot n x).exch =
      { s.exch with slots := s.exch.slots.set n x } := rfl
@[simp] theorem State.setSlot_areas (n : Fin 8) (x : Slot) (s : State) : (s.setSlot n x).areas = s.areas := rfl
@[simp] theorem State.setSlot_notices (n : Fin 8) (x : Slot) (s : State) : (s.setSlot n x).notices = s.notices := rfl
@[simp] theorem State.setSlot_pending (n : Fin 8) (x : Slot) (s : State) : (s.setSlot n x).pending = s.pending := rfl

/-! ### State.updSlot -/

@[simp] theorem State.updSlot_window (n : Fin 8) (f : Slot → Slot) (s : State) :
    (s.updSlot n f).window =
      s.window := rfl
@[simp] theorem State.updSlot_line (n : Fin 8) (f : Slot → Slot) (s : State) : (s.updSlot n f).line = s.line := rfl
@[simp] theorem State.updSlot_link (n : Fin 8) (f : Slot → Slot) (s : State) : (s.updSlot n f).link = s.link := rfl
@[simp] theorem State.updSlot_sched (n : Fin 8) (f : Slot → Slot) (s : State) : (s.updSlot n f).sched = s.sched := rfl
@[simp] theorem State.updSlot_table (n : Fin 8) (f : Slot → Slot) (s : State) : (s.updSlot n f).table = s.table := rfl
@[simp] theorem State.updSlot_image (n : Fin 8) (f : Slot → Slot) (s : State) : (s.updSlot n f).image = s.image := rfl
@[simp] theorem State.updSlot_exch (n : Fin 8) (f : Slot → Slot) (s : State) :
    (s.updSlot n f).exch =
      { s.exch with slots := s.exch.slots.set n (f (s.slotAt n)) } := rfl
@[simp] theorem State.updSlot_areas (n : Fin 8) (f : Slot → Slot) (s : State) : (s.updSlot n f).areas = s.areas := rfl
@[simp] theorem State.updSlot_notices (n : Fin 8) (f : Slot → Slot) (s : State) :
    (s.updSlot n f).notices =
      s.notices := rfl
@[simp] theorem State.updSlot_pending (n : Fin 8) (f : Slot → Slot) (s : State) :
    (s.updSlot n f).pending =
      s.pending := rfl

/-! ### State.setModule -/

@[simp] theorem State.setModule_window (k : Fin 30) (m : ModuleRecord) (s : State) :
    (s.setModule k m).window =
      s.window := rfl
@[simp] theorem State.setModule_line (k : Fin 30) (m : ModuleRecord) (s : State) :
    (s.setModule k m).line =
      s.line := rfl
@[simp] theorem State.setModule_link (k : Fin 30) (m : ModuleRecord) (s : State) :
    (s.setModule k m).link =
      s.link := rfl
@[simp] theorem State.setModule_sched (k : Fin 30) (m : ModuleRecord) (s : State) :
    (s.setModule k m).sched =
      s.sched := rfl
@[simp] theorem State.setModule_table (k : Fin 30) (m : ModuleRecord) (s : State) :
    (s.setModule k m).table =
      { s.table with records := s.table.records.set k m } := rfl
@[simp] theorem State.setModule_image (k : Fin 30) (m : ModuleRecord) (s : State) :
    (s.setModule k m).image =
      s.image := rfl
@[simp] theorem State.setModule_exch (k : Fin 30) (m : ModuleRecord) (s : State) :
    (s.setModule k m).exch =
      s.exch := rfl
@[simp] theorem State.setModule_areas (k : Fin 30) (m : ModuleRecord) (s : State) :
    (s.setModule k m).areas =
      s.areas := rfl
@[simp] theorem State.setModule_notices (k : Fin 30) (m : ModuleRecord) (s : State) :
    (s.setModule k m).notices =
      s.notices := rfl
@[simp] theorem State.setModule_pending (k : Fin 30) (m : ModuleRecord) (s : State) :
    (s.setModule k m).pending =
      s.pending := rfl

/-! ### State.updModule -/

@[simp] theorem State.updModule_window (k : Fin 30) (f : ModuleRecord → ModuleRecord) (s : State) :
    (s.updModule k f).window =
      s.window := rfl
@[simp] theorem State.updModule_line (k : Fin 30) (f : ModuleRecord → ModuleRecord) (s : State) :
    (s.updModule k f).line =
      s.line := rfl
@[simp] theorem State.updModule_link (k : Fin 30) (f : ModuleRecord → ModuleRecord) (s : State) :
    (s.updModule k f).link =
      s.link := rfl
@[simp] theorem State.updModule_sched (k : Fin 30) (f : ModuleRecord → ModuleRecord) (s : State) :
    (s.updModule k f).sched =
      s.sched := rfl
@[simp] theorem State.updModule_table (k : Fin 30) (f : ModuleRecord → ModuleRecord) (s : State) :
    (s.updModule k f).table =
      { s.table with records := s.table.records.set k (f (s.moduleAt k)) } := rfl
@[simp] theorem State.updModule_image (k : Fin 30) (f : ModuleRecord → ModuleRecord) (s : State) :
    (s.updModule k f).image =
      s.image := rfl
@[simp] theorem State.updModule_exch (k : Fin 30) (f : ModuleRecord → ModuleRecord) (s : State) :
    (s.updModule k f).exch =
      s.exch := rfl
@[simp] theorem State.updModule_areas (k : Fin 30) (f : ModuleRecord → ModuleRecord) (s : State) :
    (s.updModule k f).areas =
      s.areas := rfl
@[simp] theorem State.updModule_notices (k : Fin 30) (f : ModuleRecord → ModuleRecord) (s : State) :
    (s.updModule k f).notices =
      s.notices := rfl
@[simp] theorem State.updModule_pending (k : Fin 30) (f : ModuleRecord → ModuleRecord) (s : State) :
    (s.updModule k f).pending =
      s.pending := rfl

/-! ### State.setArea -/

@[simp] theorem State.setArea_window (a : Fin 4) (r : AreaRecord) (s : State) : (s.setArea a r).window = s.window := rfl
@[simp] theorem State.setArea_line (a : Fin 4) (r : AreaRecord) (s : State) : (s.setArea a r).line = s.line := rfl
@[simp] theorem State.setArea_link (a : Fin 4) (r : AreaRecord) (s : State) : (s.setArea a r).link = s.link := rfl
@[simp] theorem State.setArea_sched (a : Fin 4) (r : AreaRecord) (s : State) : (s.setArea a r).sched = s.sched := rfl
@[simp] theorem State.setArea_table (a : Fin 4) (r : AreaRecord) (s : State) : (s.setArea a r).table = s.table := rfl
@[simp] theorem State.setArea_image (a : Fin 4) (r : AreaRecord) (s : State) : (s.setArea a r).image = s.image := rfl
@[simp] theorem State.setArea_exch (a : Fin 4) (r : AreaRecord) (s : State) : (s.setArea a r).exch = s.exch := rfl
@[simp] theorem State.setArea_areas (a : Fin 4) (r : AreaRecord) (s : State) :
    (s.setArea a r).areas =
      { s.areas with records := s.areas.records.set a r } := rfl
@[simp] theorem State.setArea_notices (a : Fin 4) (r : AreaRecord) (s : State) :
    (s.setArea a r).notices =
      s.notices := rfl
@[simp] theorem State.setArea_pending (a : Fin 4) (r : AreaRecord) (s : State) :
    (s.setArea a r).pending =
      s.pending := rfl

/-! ### changeLink -/

@[simp] theorem changeLink_window (l : LinkState) (c : LinkCause) (s : State) :
    (changeLink l c s).window =
      s.window := rfl
@[simp] theorem changeLink_line (l : LinkState) (c : LinkCause) (s : State) : (changeLink l c s).line = s.line := rfl
@[simp] theorem changeLink_link (l : LinkState) (c : LinkCause) (s : State) :
    (changeLink l c s).link =
      { s.link with state := l, lastOld := s.link.state, lastNew := l, lastCause := c } := rfl
@[simp] theorem changeLink_sched (l : LinkState) (c : LinkCause) (s : State) : (changeLink l c s).sched = s.sched := rfl
@[simp] theorem changeLink_table (l : LinkState) (c : LinkCause) (s : State) : (changeLink l c s).table = s.table := rfl
@[simp] theorem changeLink_image (l : LinkState) (c : LinkCause) (s : State) : (changeLink l c s).image = s.image := rfl
@[simp] theorem changeLink_exch (l : LinkState) (c : LinkCause) (s : State) : (changeLink l c s).exch = s.exch := rfl
@[simp] theorem changeLink_areas (l : LinkState) (c : LinkCause) (s : State) : (changeLink l c s).areas = s.areas := rfl
@[simp] theorem changeLink_notices (l : LinkState) (c : LinkCause) (s : State) :
    (changeLink l c s).notices =
      (s.notices.offer s.sched.cycleCounter (.linkState s.link.state l c)).raise .linkChange := rfl
@[simp] theorem changeLink_pending (l : LinkState) (c : LinkCause) (s : State) :
    (changeLink l c s).pending =
      s.pending := rfl

/-! ### State.elapse -/

@[simp] theorem State.elapse_window (d : Nat) (s : State) : (s.elapse d).window = s.window := rfl
@[simp] theorem State.elapse_line (d : Nat) (s : State) : (s.elapse d).line = s.line := rfl
@[simp] theorem State.elapse_link (d : Nat) (s : State) : (s.elapse d).link = s.link := rfl
@[simp] theorem State.elapse_sched (d : Nat) (s : State) :
    (s.elapse d).sched =
      { s.sched with timer := s.sched.timer.elapse d } := rfl
@[simp] theorem State.elapse_table (d : Nat) (s : State) : (s.elapse d).table = s.table := rfl
@[simp] theorem State.elapse_image (d : Nat) (s : State) : (s.elapse d).image = s.image := rfl
@[simp] theorem State.elapse_exch (d : Nat) (s : State) : (s.elapse d).exch = s.exch := rfl
@[simp] theorem State.elapse_areas (d : Nat) (s : State) : (s.elapse d).areas = s.areas := rfl
@[simp] theorem State.elapse_notices (d : Nat) (s : State) : (s.elapse d).notices = s.notices := rfl
@[simp] theorem State.elapse_pending (d : Nat) (s : State) : (s.elapse d).pending = s.pending := rfl

/-! ### startTxn -/

@[simp] theorem startTxn_window (q : Request) (s : State) : (startTxn q s).window = s.window := rfl
@[simp] theorem startTxn_line (q : Request) (s : State) :
    (startTxn q s).line =
      { s.line with txn := some q.txn, lde := true, ltx := .idle } := rfl
@[simp] theorem startTxn_link (q : Request) (s : State) : (startTxn q s).link = s.link := rfl
@[simp] theorem startTxn_sched (q : Request) (s : State) :
    (startTxn q s).sched =
      { s.sched with forSlot := q.forSlot } := rfl
@[simp] theorem startTxn_table (q : Request) (s : State) : (startTxn q s).table = s.table := rfl
@[simp] theorem startTxn_image (q : Request) (s : State) : (startTxn q s).image = s.image := rfl
@[simp] theorem startTxn_exch (q : Request) (s : State) : (startTxn q s).exch = s.exch := rfl
@[simp] theorem startTxn_areas (q : Request) (s : State) : (startTxn q s).areas = s.areas := rfl
@[simp] theorem startTxn_notices (q : Request) (s : State) : (startTxn q s).notices = s.notices := rfl
@[simp] theorem startTxn_pending (q : Request) (s : State) : (startTxn q s).pending = s.pending := rfl

/-! ### releasePair -/

@[simp] theorem releasePair_window (s : State) : (releasePair s).window = s.window := rfl
@[simp] theorem releasePair_line (s : State) : (releasePair s).line = { s.line with lde := false, ltx := .idle } := rfl
@[simp] theorem releasePair_link (s : State) : (releasePair s).link = s.link := rfl
@[simp] theorem releasePair_sched (s : State) : (releasePair s).sched = s.sched := rfl
@[simp] theorem releasePair_table (s : State) : (releasePair s).table = s.table := rfl
@[simp] theorem releasePair_image (s : State) : (releasePair s).image = s.image := rfl
@[simp] theorem releasePair_exch (s : State) : (releasePair s).exch = s.exch := rfl
@[simp] theorem releasePair_areas (s : State) : (releasePair s).areas = s.areas := rfl
@[simp] theorem releasePair_notices (s : State) : (releasePair s).notices = s.notices := rfl
@[simp] theorem releasePair_pending (s : State) : (releasePair s).pending = s.pending := rfl

/-! ### drivePair -/

@[simp] theorem drivePair_window (s : State) : (drivePair s).window = s.window := rfl
@[simp] theorem drivePair_line (s : State) : (drivePair s).line = { s.line with lde := true, ltx := .idle } := rfl
@[simp] theorem drivePair_link (s : State) : (drivePair s).link = s.link := rfl
@[simp] theorem drivePair_sched (s : State) : (drivePair s).sched = s.sched := rfl
@[simp] theorem drivePair_table (s : State) : (drivePair s).table = s.table := rfl
@[simp] theorem drivePair_image (s : State) : (drivePair s).image = s.image := rfl
@[simp] theorem drivePair_exch (s : State) : (drivePair s).exch = s.exch := rfl
@[simp] theorem drivePair_areas (s : State) : (drivePair s).areas = s.areas := rfl
@[simp] theorem drivePair_notices (s : State) : (drivePair s).notices = s.notices := rfl
@[simp] theorem drivePair_pending (s : State) : (drivePair s).pending = s.pending := rfl

/-! ### removeTxn -/

@[simp] theorem removeTxn_window (o : TxnOutcome) (s : State) : (removeTxn o s).window = s.window := rfl
@[simp] theorem removeTxn_line (o : TxnOutcome) (s : State) :
    (removeTxn o s).line =
      { s.line with txn := none, echoFaults := echoFaultsAfter o s.line.echoFaults, lde := true, ltx := .idle } := rfl
@[simp] theorem removeTxn_link (o : TxnOutcome) (s : State) : (removeTxn o s).link = s.link := rfl
@[simp] theorem removeTxn_sched (o : TxnOutcome) (s : State) : (removeTxn o s).sched = s.sched := rfl
@[simp] theorem removeTxn_table (o : TxnOutcome) (s : State) : (removeTxn o s).table = s.table := rfl
@[simp] theorem removeTxn_image (o : TxnOutcome) (s : State) : (removeTxn o s).image = s.image := rfl
@[simp] theorem removeTxn_exch (o : TxnOutcome) (s : State) : (removeTxn o s).exch = s.exch := rfl
@[simp] theorem removeTxn_areas (o : TxnOutcome) (s : State) : (removeTxn o s).areas = s.areas := rfl
@[simp] theorem removeTxn_notices (o : TxnOutcome) (s : State) : (removeTxn o s).notices = s.notices := rfl
@[simp] theorem removeTxn_pending (o : TxnOutcome) (s : State) : (removeTxn o s).pending = s.pending := rfl

/-! ### setTxn -/

@[simp] theorem setTxn_window (t : Txn) (d : Bool) (l : LtxLevel) (s : State) :
    (setTxn t d l s).window =
      s.window := rfl
@[simp] theorem setTxn_line (t : Txn) (d : Bool) (l : LtxLevel) (s : State) :
    (setTxn t d l s).line =
      { s.line with txn := some t, lde := d, ltx := l } := rfl
@[simp] theorem setTxn_link (t : Txn) (d : Bool) (l : LtxLevel) (s : State) : (setTxn t d l s).link = s.link := rfl
@[simp] theorem setTxn_sched (t : Txn) (d : Bool) (l : LtxLevel) (s : State) : (setTxn t d l s).sched = s.sched := rfl
@[simp] theorem setTxn_table (t : Txn) (d : Bool) (l : LtxLevel) (s : State) : (setTxn t d l s).table = s.table := rfl
@[simp] theorem setTxn_image (t : Txn) (d : Bool) (l : LtxLevel) (s : State) : (setTxn t d l s).image = s.image := rfl
@[simp] theorem setTxn_exch (t : Txn) (d : Bool) (l : LtxLevel) (s : State) : (setTxn t d l s).exch = s.exch := rfl
@[simp] theorem setTxn_areas (t : Txn) (d : Bool) (l : LtxLevel) (s : State) : (setTxn t d l s).areas = s.areas := rfl
@[simp] theorem setTxn_notices (t : Txn) (d : Bool) (l : LtxLevel) (s : State) :
    (setTxn t d l s).notices =
      s.notices := rfl
@[simp] theorem setTxn_pending (t : Txn) (d : Bool) (l : LtxLevel) (s : State) :
    (setTxn t d l s).pending =
      s.pending := rfl

/-! ### State.advanceIndex -/

@[simp] theorem State.advanceIndex_window (s : State) :
    (s.advanceIndex).window =
      { s.window with index := s.window.nextIndex } := rfl
@[simp] theorem State.advanceIndex_line (s : State) : (s.advanceIndex).line = s.line := rfl
@[simp] theorem State.advanceIndex_link (s : State) : (s.advanceIndex).link = s.link := rfl
@[simp] theorem State.advanceIndex_sched (s : State) : (s.advanceIndex).sched = s.sched := rfl
@[simp] theorem State.advanceIndex_table (s : State) : (s.advanceIndex).table = s.table := rfl
@[simp] theorem State.advanceIndex_image (s : State) : (s.advanceIndex).image = s.image := rfl
@[simp] theorem State.advanceIndex_exch (s : State) : (s.advanceIndex).exch = s.exch := rfl
@[simp] theorem State.advanceIndex_areas (s : State) : (s.advanceIndex).areas = s.areas := rfl
@[simp] theorem State.advanceIndex_notices (s : State) : (s.advanceIndex).notices = s.notices := rfl
@[simp] theorem State.advanceIndex_pending (s : State) : (s.advanceIndex).pending = s.pending := rfl

/-! ### State.emptyLatch -/

@[simp] theorem State.emptyLatch_window (s : State) : (s.emptyLatch).window = { s.window with latch := none } := rfl
@[simp] theorem State.emptyLatch_line (s : State) : (s.emptyLatch).line = s.line := rfl
@[simp] theorem State.emptyLatch_link (s : State) : (s.emptyLatch).link = s.link := rfl
@[simp] theorem State.emptyLatch_sched (s : State) : (s.emptyLatch).sched = s.sched := rfl
@[simp] theorem State.emptyLatch_table (s : State) : (s.emptyLatch).table = s.table := rfl
@[simp] theorem State.emptyLatch_image (s : State) : (s.emptyLatch).image = s.image := rfl
@[simp] theorem State.emptyLatch_exch (s : State) : (s.emptyLatch).exch = s.exch := rfl
@[simp] theorem State.emptyLatch_areas (s : State) : (s.emptyLatch).areas = s.areas := rfl
@[simp] theorem State.emptyLatch_notices (s : State) : (s.emptyLatch).notices = s.notices := rfl
@[simp] theorem State.emptyLatch_pending (s : State) : (s.emptyLatch).pending = s.pending := rfl

/-! ### State.finishAccess -/

@[simp] theorem State.finishAccess_window (s : State) :
    (s.finishAccess).window =
      { s.window with index := s.window.nextIndex, latch := none } := rfl
@[simp] theorem State.finishAccess_line (s : State) : (s.finishAccess).line = s.line := rfl
@[simp] theorem State.finishAccess_link (s : State) : (s.finishAccess).link = s.link := rfl
@[simp] theorem State.finishAccess_sched (s : State) : (s.finishAccess).sched = s.sched := rfl
@[simp] theorem State.finishAccess_table (s : State) : (s.finishAccess).table = s.table := rfl
@[simp] theorem State.finishAccess_image (s : State) : (s.finishAccess).image = s.image := rfl
@[simp] theorem State.finishAccess_exch (s : State) : (s.finishAccess).exch = s.exch := rfl
@[simp] theorem State.finishAccess_areas (s : State) : (s.finishAccess).areas = s.areas := rfl
@[simp] theorem State.finishAccess_notices (s : State) : (s.finishAccess).notices = s.notices := rfl
@[simp] theorem State.finishAccess_pending (s : State) : (s.finishAccess).pending = s.pending := rfl

/-! ### State.returns -/

@[simp] theorem State.returns_window (v : Byte) (s : State) :
    (s.returns v).window =
      { s.window with dataOut := v } := rfl
@[simp] theorem State.returns_line (v : Byte) (s : State) : (s.returns v).line = s.line := rfl
@[simp] theorem State.returns_link (v : Byte) (s : State) : (s.returns v).link = s.link := rfl
@[simp] theorem State.returns_sched (v : Byte) (s : State) : (s.returns v).sched = s.sched := rfl
@[simp] theorem State.returns_table (v : Byte) (s : State) : (s.returns v).table = s.table := rfl
@[simp] theorem State.returns_image (v : Byte) (s : State) : (s.returns v).image = s.image := rfl
@[simp] theorem State.returns_exch (v : Byte) (s : State) : (s.returns v).exch = s.exch := rfl
@[simp] theorem State.returns_areas (v : Byte) (s : State) : (s.returns v).areas = s.areas := rfl
@[simp] theorem State.returns_notices (v : Byte) (s : State) : (s.returns v).notices = s.notices := rfl
@[simp] theorem State.returns_pending (v : Byte) (s : State) : (s.returns v).pending = s.pending := rfl

/-! ### storeCommand -/

@[simp] theorem storeCommand_line (u : UnitId) (c : Byte) (r : ResultCode) (s : State) :
    (storeCommand u c r s).line =
      s.line := rfl
@[simp] theorem storeCommand_link (u : UnitId) (c : Byte) (r : ResultCode) (s : State) :
    (storeCommand u c r s).link =
      s.link := rfl
@[simp] theorem storeCommand_sched (u : UnitId) (c : Byte) (r : ResultCode) (s : State) :
    (storeCommand u c r s).sched =
      s.sched := rfl
@[simp] theorem storeCommand_table (u : UnitId) (c : Byte) (r : ResultCode) (s : State) :
    (storeCommand u c r s).table =
      s.table := rfl
@[simp] theorem storeCommand_image (u : UnitId) (c : Byte) (r : ResultCode) (s : State) :
    (storeCommand u c r s).image =
      s.image := rfl
@[simp] theorem storeCommand_exch (u : UnitId) (c : Byte) (r : ResultCode) (s : State) :
    (storeCommand u c r s).exch =
      s.exch := rfl
@[simp] theorem storeCommand_areas (u : UnitId) (c : Byte) (r : ResultCode) (s : State) :
    (storeCommand u c r s).areas =
      s.areas := rfl
@[simp] theorem storeCommand_notices (u : UnitId) (c : Byte) (r : ResultCode) (s : State) :
    (storeCommand u c r s).notices =
      s.notices := rfl
@[simp] theorem storeCommand_pending (u : UnitId) (c : Byte) (r : ResultCode) (s : State) :
    (storeCommand u c r s).pending =
      s.pending := rfl

/-! ### clearDeferrals -/

@[simp] theorem clearDeferrals_window (s : State) : (clearDeferrals s).window = s.window := rfl
@[simp] theorem clearDeferrals_line (s : State) : (clearDeferrals s).line = s.line := rfl
@[simp] theorem clearDeferrals_link (s : State) : (clearDeferrals s).link = s.link := rfl
@[simp] theorem clearDeferrals_sched (s : State) : (clearDeferrals s).sched = s.sched := rfl
@[simp] theorem clearDeferrals_table (s : State) : (clearDeferrals s).table = s.table := rfl
@[simp] theorem clearDeferrals_image (s : State) : (clearDeferrals s).image = s.image := rfl
@[simp] theorem clearDeferrals_areas (s : State) : (clearDeferrals s).areas = s.areas := rfl
@[simp] theorem clearDeferrals_notices (s : State) : (clearDeferrals s).notices = s.notices := rfl
@[simp] theorem clearDeferrals_pending (s : State) : (clearDeferrals s).pending = s.pending := rfl

/-! ### countScan -/

@[simp] theorem countScan_window (s : State) : (countScan s).window = s.window := rfl
@[simp] theorem countScan_line (s : State) : (countScan s).line = s.line := rfl
@[simp] theorem countScan_link (s : State) : (countScan s).link = s.link := rfl
@[simp] theorem countScan_sched (s : State) :
    (countScan s).sched =
      { s.sched with scanned := s.sched.scanned + 1, scanPos := s.sched.scanPos + 1 } := rfl
@[simp] theorem countScan_table (s : State) : (countScan s).table = s.table := rfl
@[simp] theorem countScan_image (s : State) : (countScan s).image = s.image := rfl
@[simp] theorem countScan_exch (s : State) : (countScan s).exch = s.exch := rfl
@[simp] theorem countScan_areas (s : State) : (countScan s).areas = s.areas := rfl
@[simp] theorem countScan_notices (s : State) : (countScan s).notices = s.notices := rfl
@[simp] theorem countScan_pending (s : State) : (countScan s).pending = s.pending := rfl

/-! ### updateAges -/

@[simp] theorem updateAges_window (s : State) : (updateAges s).window = s.window := rfl
@[simp] theorem updateAges_line (s : State) : (updateAges s).line = s.line := rfl
@[simp] theorem updateAges_link (s : State) : (updateAges s).link = s.link := rfl
@[simp] theorem updateAges_sched (s : State) : (updateAges s).sched = s.sched := rfl
@[simp] theorem updateAges_table (s : State) :
    (updateAges s).table =
      { s.table with records := mapVec ModuleRecord.aged s.table.records } := rfl
@[simp] theorem updateAges_image (s : State) : (updateAges s).image = s.image := rfl
@[simp] theorem updateAges_exch (s : State) : (updateAges s).exch = s.exch := rfl
@[simp] theorem updateAges_areas (s : State) : (updateAges s).areas = s.areas := rfl
@[simp] theorem updateAges_notices (s : State) : (updateAges s).notices = s.notices := rfl
@[simp] theorem updateAges_pending (s : State) : (updateAges s).pending = s.pending := rfl

/-! ### mapModulesDown -/

@[simp] theorem mapModulesDown_window (s : State) : (mapModulesDown s).window = s.window := rfl
@[simp] theorem mapModulesDown_line (s : State) : (mapModulesDown s).line = s.line := rfl
@[simp] theorem mapModulesDown_link (s : State) : (mapModulesDown s).link = s.link := rfl
@[simp] theorem mapModulesDown_sched (s : State) : (mapModulesDown s).sched = s.sched := rfl
@[simp] theorem mapModulesDown_table (s : State) :
    (mapModulesDown s).table =
      { s.table with records := mapVec ModuleRecord.linkDown s.table.records } := rfl
@[simp] theorem mapModulesDown_image (s : State) : (mapModulesDown s).image = s.image := rfl
@[simp] theorem mapModulesDown_exch (s : State) : (mapModulesDown s).exch = s.exch := rfl
@[simp] theorem mapModulesDown_areas (s : State) : (mapModulesDown s).areas = s.areas := rfl
@[simp] theorem mapModulesDown_notices (s : State) : (mapModulesDown s).notices = s.notices := rfl
@[simp] theorem mapModulesDown_pending (s : State) : (mapModulesDown s).pending = s.pending := rfl

/-! ### enterRest -/

@[simp] theorem enterRest_window (s : State) : (enterRest s).window = s.window := rfl
@[simp] theorem enterRest_line (s : State) : (enterRest s).line = s.line := rfl
@[simp] theorem enterRest_link (s : State) : (enterRest s).link = s.link := rfl
@[simp] theorem enterRest_sched (s : State) : (enterRest s).sched = { s.sched with stage := .rest } := rfl
@[simp] theorem enterRest_table (s : State) : (enterRest s).table = s.table := rfl
@[simp] theorem enterRest_image (s : State) : (enterRest s).image = s.image := rfl
@[simp] theorem enterRest_exch (s : State) : (enterRest s).exch = s.exch := rfl
@[simp] theorem enterRest_areas (s : State) : (enterRest s).areas = s.areas := rfl
@[simp] theorem enterRest_notices (s : State) : (enterRest s).notices = s.notices := rfl
@[simp] theorem enterRest_pending (s : State) : (enterRest s).pending = s.pending := rfl

/-! ### answered -/

@[simp] theorem answered_line (u : UnitId) (c : Byte) (r : ResultCode) (s : State) :
    (answered u c r s).line =
      s.line := rfl
@[simp] theorem answered_link (u : UnitId) (c : Byte) (r : ResultCode) (s : State) :
    (answered u c r s).link =
      s.link := rfl
@[simp] theorem answered_sched (u : UnitId) (c : Byte) (r : ResultCode) (s : State) :
    (answered u c r s).sched =
      s.sched := rfl
@[simp] theorem answered_table (u : UnitId) (c : Byte) (r : ResultCode) (s : State) :
    (answered u c r s).table =
      s.table := rfl
@[simp] theorem answered_image (u : UnitId) (c : Byte) (r : ResultCode) (s : State) :
    (answered u c r s).image =
      s.image := rfl
@[simp] theorem answered_exch (u : UnitId) (c : Byte) (r : ResultCode) (s : State) :
    (answered u c r s).exch =
      s.exch := rfl
@[simp] theorem answered_areas (u : UnitId) (c : Byte) (r : ResultCode) (s : State) :
    (answered u c r s).areas =
      s.areas := rfl
@[simp] theorem answered_notices (u : UnitId) (c : Byte) (r : ResultCode) (s : State) :
    (answered u c r s).notices =
      s.notices := rfl
@[simp] theorem answered_pending (u : UnitId) (c : Byte) (r : ResultCode) (s : State) :
    (answered u c r s).pending =
      s.pending := rfl

/-! ### stepped -/

@[simp] theorem stepped_line (s : State) : (stepped s).line = s.line := rfl
@[simp] theorem stepped_link (s : State) : (stepped s).link = s.link := rfl
@[simp] theorem stepped_sched (s : State) : (stepped s).sched = s.sched := rfl
@[simp] theorem stepped_table (s : State) : (stepped s).table = s.table := rfl
@[simp] theorem stepped_image (s : State) : (stepped s).image = s.image := rfl
@[simp] theorem stepped_exch (s : State) : (stepped s).exch = s.exch := rfl
@[simp] theorem stepped_areas (s : State) : (stepped s).areas = s.areas := rfl
@[simp] theorem stepped_notices (s : State) : (stepped s).notices = s.notices := rfl
@[simp] theorem stepped_pending (s : State) : (stepped s).pending = s.pending := rfl

/-! ### erred -/

@[simp] theorem erred_line (c : WindowCause) (s : State) : (erred c s).line = s.line := rfl
@[simp] theorem erred_link (c : WindowCause) (s : State) : (erred c s).link = s.link := rfl
@[simp] theorem erred_sched (c : WindowCause) (s : State) : (erred c s).sched = s.sched := rfl
@[simp] theorem erred_table (c : WindowCause) (s : State) : (erred c s).table = s.table := rfl
@[simp] theorem erred_image (c : WindowCause) (s : State) : (erred c s).image = s.image := rfl
@[simp] theorem erred_exch (c : WindowCause) (s : State) : (erred c s).exch = s.exch := rfl
@[simp] theorem erred_areas (c : WindowCause) (s : State) : (erred c s).areas = s.areas := rfl
@[simp] theorem erred_notices (c : WindowCause) (s : State) : (erred c s).notices = s.notices.raise .windowError := rfl
@[simp] theorem erred_pending (c : WindowCause) (s : State) : (erred c s).pending = s.pending := rfl

end Sys2Proof.Machine
end

