-- ==== Sys2Proof/Laws/Records.lean ====
section
/-! SUPPORT. Records after a change of one of them: modules, slots and areas; entries of a mapped vector. -/

namespace Sys2Proof.Machine

@[simp] theorem mapVec_get {α β : Type} {n : Nat} (f : α → β) (v : Vector α n) (i : Nat) (h : i < n) :
    (mapVec f v)[i] = f v[i] := by
  simp [mapVec]

@[simp] theorem mapVec_getFin {α β : Type} {n : Nat} (f : α → β) (v : Vector α n) (i : Fin n) :
    (mapVec f v)[i] = f v[i] := by
  simp [mapVec]

/-! ### Modules -/

/-- A module's address names its record. -/
@[simp] theorem moduleIndex_address (k : Fin 30) : moduleIndex (moduleAddress k) = some k := by
  have h : 1 ≤ k.val + 1 ∧ k.val + 1 ≤ 30 := by omega
  simp [moduleIndex, moduleAddress, h]

theorem moduleIndex_eq_some {a : Nat} {k : Fin 30} : moduleIndex a = some k ↔ a = moduleAddress k := by
  constructor
  · intro h
    simp only [moduleIndex] at h
    split at h
    · next hr => cases h; simp only [moduleAddress]; omega
    · cases h
  · rintro rfl; exact moduleIndex_address k

theorem moduleIndex_eq_none {a : Nat} : moduleIndex a = none ↔ a = 0 ∨ 30 < a := by
  simp only [moduleIndex]
  split <;> simp <;> omega

@[simp] theorem State.moduleAt_setModule_same (s : State) (k : Fin 30) (m : ModuleRecord) :
    (s.setModule k m).moduleAt k = m := by
  simp [State.moduleAt]

theorem State.moduleAt_setModule_other (s : State) {j k : Fin 30} (m : ModuleRecord) (h : j ≠ k) :
    (s.setModule k m).moduleAt j = s.moduleAt j := by
  have : k.val ≠ j.val := fun e => h (Fin.ext e.symm)
  simp [State.moduleAt, this]

theorem State.moduleAt_setModule (s : State) (j k : Fin 30) (m : ModuleRecord) :
    (s.setModule k m).moduleAt j = if j = k then m else s.moduleAt j := by
  split
  · next h => rw [h, State.moduleAt_setModule_same]
  · next h => exact State.moduleAt_setModule_other s m h

@[simp] theorem State.moduleAt_updModule_same (s : State) (k : Fin 30) (f : ModuleRecord → ModuleRecord) :
    (s.updModule k f).moduleAt k = f (s.moduleAt k) := State.moduleAt_setModule_same s k _

theorem State.moduleAt_updModule (s : State) (j k : Fin 30) (f : ModuleRecord → ModuleRecord) :
    (s.updModule k f).moduleAt j = if j = k then f (s.moduleAt j) else s.moduleAt j := by
  rw [State.updModule, State.moduleAt_setModule]
  split
  · next h => rw [h]
  · rfl

/-- Module records are read from the module table alone. -/
theorem State.moduleAt_congr {s t : State} (h : s.table = t.table) (k : Fin 30) : s.moduleAt k = t.moduleAt k := by
  simp only [State.moduleAt, h]

/-! ### Slots -/

@[simp] theorem State.slotAt_setSlot_same (s : State) (n : Fin 8) (x : Slot) : (s.setSlot n x).slotAt n = x := by
  simp [State.slotAt]

theorem State.slotAt_setSlot (s : State) (j n : Fin 8) (x : Slot) :
    (s.setSlot n x).slotAt j = if j = n then x else s.slotAt j := by
  split
  · next h => rw [h, State.slotAt_setSlot_same]
  · next h =>
    have : n.val ≠ j.val := fun e => h (Fin.ext e.symm)
    simp [State.slotAt, this]

@[simp] theorem State.slotAt_updSlot_same (s : State) (n : Fin 8) (f : Slot → Slot) :
    (s.updSlot n f).slotAt n = f (s.slotAt n) := State.slotAt_setSlot_same s n _

theorem State.slotAt_updSlot (s : State) (j n : Fin 8) (f : Slot → Slot) :
    (s.updSlot n f).slotAt j = if j = n then f (s.slotAt j) else s.slotAt j := by
  rw [State.updSlot, State.slotAt_setSlot]
  split
  · next h => rw [h]
  · rfl

/-- Slots are read from the exchange unit alone. -/
theorem State.slotAt_congr {s t : State} (h : s.exch = t.exch) (n : Fin 8) : s.slotAt n = t.slotAt n := by
  simp only [State.slotAt, h]

/-! ### Areas -/

@[simp] theorem State.areaAt_setArea_same (s : State) (a : Fin 4) (r : AreaRecord) : (s.setArea a r).areaAt a = r := by
  simp [State.areaAt]

theorem State.areaAt_setArea (s : State) (b a : Fin 4) (r : AreaRecord) :
    (s.setArea a r).areaAt b = if b = a then r else s.areaAt b := by
  split
  · next h => rw [h, State.areaAt_setArea_same]
  · next h =>
    have : a.val ≠ b.val := fun e => h (Fin.ext e.symm)
    simp [State.areaAt, this]

/-- Areas are read from the area unit alone. -/
theorem State.areaAt_congr {s t : State} (h : s.areas = t.areas) (a : Fin 4) : s.areaAt a = t.areaAt a := by
  simp only [State.areaAt, h]

/-! ### Every member of the three lists -/

theorem mem_allModules (k : Fin 30) : k ∈ allModules := by revert k; decide

theorem mem_allSlots (n : Fin 8) : n ∈ allSlots := by revert n; decide

theorem mem_allAreas (a : Fin 4) : a ∈ allAreas := by revert a; decide

/-! ### The checks of a module record -/

theorem ModuleRecord.regionsInside_iff (m : ModuleRecord) : m.regionsInside = true ↔
    m.inOffset.toNat + m.inLength.toNat ≤ 1024 ∧ m.outOffset.toNat + m.outLength.toNat ≤ 1024 := by
  simp only [ModuleRecord.regionsInside, Bool.and_eq_true, decide_eq_true_eq]
  rfl

theorem ModuleRecord.mapOk_iff (m : ModuleRecord) : m.mapOk = true ↔
    m.inLength.toNat ≤ 32 ∧ m.outLength.toNat ≤ 32 ∧ m.regionsInside = true := by
  simp only [ModuleRecord.mapOk, Bool.and_eq_true, decide_eq_true_eq, and_assoc]
  rfl

theorem ModuleRecord.formatOk_iff (m : ModuleRecord) : m.formatOk = true ↔
    m.repIn.toNat ≤ 32 ∧ m.repOut.toNat ≤ 32 ∧ 1 ≤ m.repMax.toNat ∧ m.repMax.toNat ≤ 64 := by
  simp only [ModuleRecord.formatOk, Bool.and_eq_true, decide_eq_true_eq, and_assoc]
  rfl

theorem ModuleRecord.typeOk_iff (m : ModuleRecord) : m.typeOk = true ↔
    m.expectedType = 0xFFFF#16 ∨ m.repType = m.expectedType := by
  simp only [ModuleRecord.typeOk, Bool.or_eq_true, beq_iff_eq]
  rfl

theorem ModuleRecord.lengthOk_iff (m : ModuleRecord) : m.lengthOk = true ↔
    m.repIn = m.inLength ∧ m.repOut = m.outLength ∧ m.regionsInside = true := by
  simp only [ModuleRecord.lengthOk, Bool.and_eq_true, beq_iff_eq, and_assoc]

/-- Regions inside, said of each module. -/
theorem State.regionsInside_iff (s : State) :
    s.regionsInside = true ↔ ∀ k, (s.moduleAt k).state.inService = true → (s.moduleAt k).regionsInside = true := by
  simp only [State.regionsInside, List.all_eq_true, Bool.or_eq_true, Bool.not_eq_true']
  constructor
  · intro h k hk
    rcases h k (mem_allModules k) with h | h
    · rw [hk] at h; cases h
    · exact h
  · intro h k _
    cases hk : (s.moduleAt k).state.inService
    · exact Or.inl rfl
    · exact Or.inr (h k hk)

/-- Areas inside, said of each area. -/
theorem State.areasInside_iff (s : State) : s.areasInside = true ↔ ∀ a, (s.areaAt a).inside = true := by
  simp only [State.areasInside, List.all_eq_true]
  exact ⟨fun h a => h a (mem_allAreas a), fun h a _ => h a⟩

end Sys2Proof.Machine
end

