-- ==== Sys2Proof/Laws/Frames.lean ====
section
/-! SUPPORT. For each shared operation, one lemma: the blocks of State it leaves as they are. -/

namespace Sys2Proof.Machine

set_option linter.unusedTactic false
set_option linter.unnecessarySeqFocus false
set_option linter.unreachableTactic false

@[simp] theorem enterEnded_frame (n : Fin 8) (st : SlotState) (c : Condition) (s : State) :
    (enterEnded n st c s).window = s.window ∧ (enterEnded n st c s).line = s.line ∧
    (enterEnded n st c s).link = s.link ∧ (enterEnded n st c s).sched = s.sched ∧
    (enterEnded n st c s).table = s.table ∧ (enterEnded n st c s).image = s.image ∧
    (enterEnded n st c s).areas = s.areas ∧ (enterEnded n st c s).pending = s.pending := by
  unfold enterEnded
  (try dsimp only)
  (repeat' split) <;> simp

@[simp] theorem failSlots_frame (c : Condition) (l : List (Fin 8)) (s : State) :
    (failSlots c l s).window = s.window ∧ (failSlots c l s).line = s.line ∧ (failSlots c l s).link = s.link ∧
    (failSlots c l s).sched = s.sched ∧ (failSlots c l s).table = s.table ∧ (failSlots c l s).image = s.image ∧
    (failSlots c l s).areas = s.areas ∧ (failSlots c l s).pending = s.pending := by
  induction l generalizing s with
  | nil => simp [failSlots]
  | cons n l ih => simp [failSlots, ih]

@[simp] theorem failHolder_frame (h : Holder) (s : State) :
    (failHolder h s).window = s.window ∧ (failHolder h s).line = s.line ∧ (failHolder h s).link = s.link ∧
    (failHolder h s).sched = s.sched ∧ (failHolder h s).table = s.table ∧ (failHolder h s).image = s.image ∧
    (failHolder h s).areas = s.areas ∧ (failHolder h s).pending = s.pending := by
  unfold failHolder
  (try dsimp only)
  (repeat' split) <;> simp

@[simp] theorem enterLost_frame (k : Fin 30) (c : ModuleCause) (s : State) :
    (enterLost k c s).window = s.window ∧ (enterLost k c s).line = s.line ∧ (enterLost k c s).link = s.link ∧
    (enterLost k c s).sched = s.sched ∧ (enterLost k c s).image = s.image ∧ (enterLost k c s).areas = s.areas ∧
    (enterLost k c s).pending = s.pending := by
  unfold enterLost
  (try dsimp only)
  (repeat' split) <;> simp

@[simp] theorem countFailure_frame (k : Fin 30) (s : State) :
    (countFailure k s).window = s.window ∧ (countFailure k s).line = s.line ∧ (countFailure k s).link = s.link ∧
    (countFailure k s).sched = s.sched ∧ (countFailure k s).image = s.image ∧ (countFailure k s).areas = s.areas ∧
    (countFailure k s).pending = s.pending := by
  unfold countFailure
  (try dsimp only)
  (repeat' split) <;> simp

@[simp] theorem countOutcome_frame (k : Fin 30) (o : TxnOutcome) (s : State) :
    (countOutcome k o s).window = s.window ∧ (countOutcome k o s).line = s.line ∧
    (countOutcome k o s).link = s.link ∧ (countOutcome k o s).sched = s.sched ∧
    (countOutcome k o s).image = s.image ∧ (countOutcome k o s).areas = s.areas ∧
    (countOutcome k o s).pending = s.pending := by
  unfold countOutcome
  (try dsimp only)
  (repeat' split) <;> simp

@[simp] theorem watchStatus_frame (k : Fin 30) (b : Byte) (s : State) :
    (watchStatus k b s).window = s.window ∧ (watchStatus k b s).line = s.line ∧ (watchStatus k b s).link = s.link ∧
    (watchStatus k b s).sched = s.sched ∧ (watchStatus k b s).image = s.image ∧ (watchStatus k b s).exch = s.exch ∧
    (watchStatus k b s).areas = s.areas ∧ (watchStatus k b s).pending = s.pending := by
  unfold watchStatus
  (try dsimp only)
  (repeat' split) <;> simp

@[simp] theorem takeScanReply_frame (k : Fin 30) (p : List Byte) (s : State) :
    (takeScanReply k p s).window = s.window ∧ (takeScanReply k p s).line = s.line ∧
    (takeScanReply k p s).link = s.link ∧ (takeScanReply k p s).sched = s.sched ∧
    (takeScanReply k p s).image = s.image ∧ (takeScanReply k p s).exch = s.exch ∧
    (takeScanReply k p s).areas = s.areas ∧ (takeScanReply k p s).pending = s.pending := by
  unfold takeScanReply
  (try dsimp only)
  (repeat' split) <;> simp

@[simp] theorem enterMismatch_frame (k : Fin 30) (c : MismatchCause) (s : State) :
    (enterMismatch k c s).window = s.window ∧ (enterMismatch k c s).line = s.line ∧
    (enterMismatch k c s).link = s.link ∧ (enterMismatch k c s).sched = s.sched ∧
    (enterMismatch k c s).image = s.image ∧ (enterMismatch k c s).areas = s.areas ∧
    (enterMismatch k c s).pending = s.pending := by
  unfold enterMismatch
  (try dsimp only)
  (repeat' split) <;> simp

@[simp] theorem judgeIdent_frame (k : Fin 30) (s : State) :
    (judgeIdent k s).window = s.window ∧ (judgeIdent k s).line = s.line ∧ (judgeIdent k s).link = s.link ∧
    (judgeIdent k s).sched = s.sched ∧ (judgeIdent k s).image = s.image ∧ (judgeIdent k s).areas = s.areas ∧
    (judgeIdent k s).pending = s.pending := by
  unfold judgeIdent
  (try dsimp only)
  (repeat' split) <;> simp

@[simp] theorem enterFound_frame (k : Fin 30) (i : Ident) (s : State) :
    (enterFound k i s).window = s.window ∧ (enterFound k i s).line = s.line ∧ (enterFound k i s).link = s.link ∧
    (enterFound k i s).sched = s.sched ∧ (enterFound k i s).image = s.image ∧ (enterFound k i s).exch = s.exch ∧
    (enterFound k i s).areas = s.areas ∧ (enterFound k i s).pending = s.pending := by
  unfold enterFound
  (try dsimp only)
  (repeat' split) <;> simp

@[simp] theorem takeIdent_frame (k : Fin 30) (i : Ident) (s : State) :
    (takeIdent k i s).window = s.window ∧ (takeIdent k i s).line = s.line ∧ (takeIdent k i s).link = s.link ∧
    (takeIdent k i s).sched = s.sched ∧ (takeIdent k i s).image = s.image ∧ (takeIdent k i s).areas = s.areas ∧
    (takeIdent k i s).pending = s.pending := by
  unfold takeIdent
  (try dsimp only)
  (repeat' split) <;> simp

@[simp] theorem takeProbe_frame (k : Fin 30) (o : TxnOutcome) (s : State) :
    (takeProbe k o s).window = s.window ∧ (takeProbe k o s).line = s.line ∧ (takeProbe k o s).link = s.link ∧
    (takeProbe k o s).sched = s.sched ∧ (takeProbe k o s).image = s.image ∧ (takeProbe k o s).areas = s.areas ∧
    (takeProbe k o s).pending = s.pending := by
  unfold takeProbe
  (try dsimp only)
  (repeat' split) <;> simp

@[simp] theorem endCancel_frame (k : Fin 30) (s : State) :
    (endCancel k s).window = s.window ∧ (endCancel k s).line = s.line ∧ (endCancel k s).link = s.link ∧
    (endCancel k s).sched = s.sched ∧ (endCancel k s).image = s.image ∧ (endCancel k s).exch = s.exch ∧
    (endCancel k s).areas = s.areas ∧ (endCancel k s).notices = s.notices ∧ (endCancel k s).pending = s.pending := by
  unfold endCancel
  (try dsimp only)
  (repeat' split) <;> simp

@[simp] theorem holdCancel_frame (k : Fin 30) (s : State) :
    (holdCancel k s).window = s.window ∧ (holdCancel k s).line = s.line ∧ (holdCancel k s).link = s.link ∧
    (holdCancel k s).sched = s.sched ∧ (holdCancel k s).image = s.image ∧ (holdCancel k s).areas = s.areas ∧
    (holdCancel k s).pending = s.pending := by
  unfold holdCancel
  (try dsimp only)
  (repeat' split) <;> simp

@[simp] theorem settleCancel_frame (k : Fin 30) (o : TxnOutcome) (s : State) :
    (settleCancel k o s).window = s.window ∧ (settleCancel k o s).line = s.line ∧
    (settleCancel k o s).link = s.link ∧ (settleCancel k o s).sched = s.sched ∧
    (settleCancel k o s).image = s.image ∧ (settleCancel k o s).areas = s.areas ∧
    (settleCancel k o s).pending = s.pending := by
  unfold settleCancel
  (try dsimp only)
  (repeat' split) <;> simp

@[simp] theorem deferCancel_frame (k : Fin 30) (s : State) :
    (deferCancel k s).window = s.window ∧ (deferCancel k s).line = s.line ∧ (deferCancel k s).link = s.link ∧
    (deferCancel k s).table = s.table ∧ (deferCancel k s).image = s.image ∧ (deferCancel k s).exch = s.exch ∧
    (deferCancel k s).areas = s.areas ∧ (deferCancel k s).notices = s.notices ∧
    (deferCancel k s).pending = s.pending := by
  unfold deferCancel
  (try dsimp only)
  (repeat' split) <;> simp

@[simp] theorem takeCancel_frame (k : Fin 30) (o : TxnOutcome) (s : State) :
    (takeCancel k o s).window = s.window ∧ (takeCancel k o s).line = s.line ∧ (takeCancel k o s).link = s.link ∧
    (takeCancel k o s).image = s.image ∧ (takeCancel k o s).areas = s.areas ∧
    (takeCancel k o s).pending = s.pending := by
  unfold takeCancel
  (try dsimp only)
  (repeat' split) <;> simp

@[simp] theorem State.updModuleOf_frame (s : State) (x : Slot) (f : ModuleRecord → ModuleRecord) :
    (s.updModuleOf x f).window = s.window ∧ (s.updModuleOf x f).line = s.line ∧ (s.updModuleOf x f).link = s.link ∧
    (s.updModuleOf x f).sched = s.sched ∧ (s.updModuleOf x f).image = s.image ∧ (s.updModuleOf x f).exch = s.exch ∧
    (s.updModuleOf x f).areas = s.areas ∧ (s.updModuleOf x f).notices = s.notices ∧
    (s.updModuleOf x f).pending = s.pending := by
  unfold State.updModuleOf
  (try dsimp only)
  (repeat' split) <;> simp

@[simp] theorem enqueueSlot_frame (n : Fin 8) (s : State) :
    (enqueueSlot n s).window = s.window ∧ (enqueueSlot n s).line = s.line ∧ (enqueueSlot n s).link = s.link ∧
    (enqueueSlot n s).sched = s.sched ∧ (enqueueSlot n s).image = s.image ∧ (enqueueSlot n s).areas = s.areas ∧
    (enqueueSlot n s).notices = s.notices ∧ (enqueueSlot n s).pending = s.pending := by
  unfold enqueueSlot
  (try dsimp only)
  (repeat' split) <;> simp

@[simp] theorem pickFromQueued_frame (n : Fin 8) (s : State) :
    (pickFromQueued n s).window = s.window ∧ (pickFromQueued n s).line = s.line ∧
    (pickFromQueued n s).link = s.link ∧ (pickFromQueued n s).sched = s.sched ∧
    (pickFromQueued n s).image = s.image ∧ (pickFromQueued n s).areas = s.areas ∧
    (pickFromQueued n s).notices = s.notices ∧ (pickFromQueued n s).pending = s.pending := by
  unfold pickFromQueued
  (try dsimp only)
  (repeat' split) <;> simp

@[simp] theorem finishExchange_frame (n : Fin 8) (c : Condition) (s : State) :
    (finishExchange n c s).window = s.window ∧ (finishExchange n c s).line = s.line ∧
    (finishExchange n c s).link = s.link ∧ (finishExchange n c s).sched = s.sched ∧
    (finishExchange n c s).image = s.image ∧ (finishExchange n c s).areas = s.areas ∧
    (finishExchange n c s).pending = s.pending := by
  unfold finishExchange
  (try dsimp only)
  (repeat' split) <;> simp

@[simp] theorem slotError_frame (n : Fin 8) (e : ErrorKind) (s : State) :
    (slotError n e s).window = s.window ∧ (slotError n e s).line = s.line ∧ (slotError n e s).link = s.link ∧
    (slotError n e s).sched = s.sched ∧ (slotError n e s).image = s.image ∧ (slotError n e s).areas = s.areas ∧
    (slotError n e s).pending = s.pending := by
  unfold slotError
  (try dsimp only)
  (repeat' split) <;> simp

@[simp] theorem slotHold_frame (n : Fin 8) (s : State) :
    (slotHold n s).window = s.window ∧ (slotHold n s).line = s.line ∧ (slotHold n s).link = s.link ∧
    (slotHold n s).sched = s.sched ∧ (slotHold n s).image = s.image ∧ (slotHold n s).areas = s.areas ∧
    (slotHold n s).pending = s.pending := by
  unfold slotHold
  (try dsimp only)
  (repeat' split) <;> simp

@[simp] theorem slotRefused_frame (n : Fin 8) (b : Byte) (s : State) :
    (slotRefused n b s).window = s.window ∧ (slotRefused n b s).line = s.line ∧ (slotRefused n b s).link = s.link ∧
    (slotRefused n b s).sched = s.sched ∧ (slotRefused n b s).image = s.image ∧ (slotRefused n b s).areas = s.areas ∧
    (slotRefused n b s).pending = s.pending := by
  unfold slotRefused
  (try dsimp only)
  (repeat' split) <;> simp

@[simp] theorem openAccepted_frame (n : Fin 8) (s : State) :
    (openAccepted n s).window = s.window ∧ (openAccepted n s).line = s.line ∧ (openAccepted n s).link = s.link ∧
    (openAccepted n s).sched = s.sched ∧ (openAccepted n s).table = s.table ∧ (openAccepted n s).image = s.image ∧
    (openAccepted n s).areas = s.areas ∧ (openAccepted n s).notices = s.notices ∧
    (openAccepted n s).pending = s.pending := by
  unfold openAccepted
  (try dsimp only)
  (repeat' split) <;> simp

@[simp] theorem putAccepted_frame (n : Fin 8) (e : Nat) (b : Bool) (s : State) :
    (putAccepted n e b s).window = s.window ∧ (putAccepted n e b s).line = s.line ∧
    (putAccepted n e b s).link = s.link ∧ (putAccepted n e b s).sched = s.sched ∧
    (putAccepted n e b s).table = s.table ∧ (putAccepted n e b s).image = s.image ∧
    (putAccepted n e b s).notices = s.notices ∧ (putAccepted n e b s).pending = s.pending := by
  unfold putAccepted
  (try dsimp only)
  (repeat' split) <;> simp

@[simp] theorem appendToArea_frame (a : Fin 4) (bs : List Byte) (s : State) :
    (appendToArea a bs s).window = s.window ∧ (appendToArea a bs s).line = s.line ∧
    (appendToArea a bs s).link = s.link ∧ (appendToArea a bs s).sched = s.sched ∧
    (appendToArea a bs s).table = s.table ∧ (appendToArea a bs s).image = s.image ∧
    (appendToArea a bs s).exch = s.exch ∧ (appendToArea a bs s).notices = s.notices ∧
    (appendToArea a bs s).pending = s.pending := by
  unfold appendToArea
  (try dsimp only)
  (repeat' split) <;> simp

@[simp] theorem dataReply_frame (n : Fin 8) (e : Nat) (b : Bool) (r : Reply) (s : State) :
    (dataReply n e b r s).window = s.window ∧ (dataReply n e b r s).line = s.line ∧
    (dataReply n e b r s).link = s.link ∧ (dataReply n e b r s).sched = s.sched ∧
    (dataReply n e b r s).image = s.image ∧ (dataReply n e b r s).pending = s.pending := by
  unfold dataReply
  (try dsimp only)
  (repeat' split) <;> simp

@[simp] theorem resultReply_frame (n : Fin 8) (p : List Byte) (s : State) :
    (resultReply n p s).window = s.window ∧ (resultReply n p s).line = s.line ∧ (resultReply n p s).link = s.link ∧
    (resultReply n p s).sched = s.sched ∧ (resultReply n p s).image = s.image ∧ (resultReply n p s).areas = s.areas ∧
    (resultReply n p s).pending = s.pending := by
  unfold resultReply
  (try dsimp only)
  (repeat' split) <;> simp

@[simp] theorem slotReply_frame (n : Fin 8) (q : SlotRequest) (r : Reply) (s : State) :
    (slotReply n q r s).window = s.window ∧ (slotReply n q r s).line = s.line ∧ (slotReply n q r s).link = s.link ∧
    (slotReply n q r s).sched = s.sched ∧ (slotReply n q r s).image = s.image ∧
    (slotReply n q r s).pending = s.pending := by
  unfold slotReply
  (try dsimp only)
  (repeat' split) <;> simp

@[simp] theorem applySlotOutcome_frame (n : Fin 8) (q : SlotRequest) (o : TxnOutcome) (s : State) :
    (applySlotOutcome n q o s).window = s.window ∧ (applySlotOutcome n q o s).line = s.line ∧
    (applySlotOutcome n q o s).link = s.link ∧ (applySlotOutcome n q o s).sched = s.sched ∧
    (applySlotOutcome n q o s).image = s.image ∧ (applySlotOutcome n q o s).pending = s.pending := by
  unfold applySlotOutcome
  (try dsimp only)
  (repeat' split) <;> simp

@[simp] theorem resolveAbort_frame (n : Fin 8) (s : State) :
    (resolveAbort n s).window = s.window ∧ (resolveAbort n s).line = s.line ∧ (resolveAbort n s).link = s.link ∧
    (resolveAbort n s).sched = s.sched ∧ (resolveAbort n s).table = s.table ∧ (resolveAbort n s).image = s.image ∧
    (resolveAbort n s).areas = s.areas ∧ (resolveAbort n s).pending = s.pending := by
  unfold resolveAbort
  (try dsimp only)
  (repeat' split) <;> simp

@[simp] theorem takeSlotOutcome_frame (n : Fin 8) (o : TxnOutcome) (s : State) :
    (takeSlotOutcome n o s).window = s.window ∧ (takeSlotOutcome n o s).line = s.line ∧
    (takeSlotOutcome n o s).link = s.link ∧ (takeSlotOutcome n o s).sched = s.sched ∧
    (takeSlotOutcome n o s).image = s.image ∧ (takeSlotOutcome n o s).pending = s.pending := by
  unfold takeSlotOutcome
  (try dsimp only)
  (repeat' split) <;> simp

@[simp] theorem failSlotsDown_frame (c : Condition) (l : List (Fin 8)) (s : State) :
    (failSlotsDown c l s).window = s.window ∧ (failSlotsDown c l s).line = s.line ∧
    (failSlotsDown c l s).link = s.link ∧ (failSlotsDown c l s).sched = s.sched ∧
    (failSlotsDown c l s).table = s.table ∧ (failSlotsDown c l s).image = s.image ∧
    (failSlotsDown c l s).areas = s.areas ∧ (failSlotsDown c l s).pending = s.pending := by
  induction l generalizing s with
  | nil => simp [failSlotsDown]
  | cons n l ih => unfold failSlotsDown; split <;> simp [ih]

@[simp] theorem abortInPhase_frame (n : Fin 8) (s : State) :
    (abortInPhase n s).window = s.window ∧ (abortInPhase n s).line = s.line ∧ (abortInPhase n s).link = s.link ∧
    (abortInPhase n s).sched = s.sched ∧ (abortInPhase n s).table = s.table ∧ (abortInPhase n s).image = s.image ∧
    (abortInPhase n s).areas = s.areas ∧ (abortInPhase n s).pending = s.pending := by
  unfold abortInPhase
  (try dsimp only)
  (repeat' split) <;> simp

@[simp] theorem abortSlots_frame (l : List (Fin 8)) (s : State) :
    (abortSlots l s).window = s.window ∧ (abortSlots l s).line = s.line ∧ (abortSlots l s).link = s.link ∧
    (abortSlots l s).sched = s.sched ∧ (abortSlots l s).table = s.table ∧ (abortSlots l s).image = s.image ∧
    (abortSlots l s).areas = s.areas ∧ (abortSlots l s).pending = s.pending := by
  induction l generalizing s with
  | nil => simp [abortSlots]
  | cons n l ih => unfold abortSlots; split <;> simp [ih]

@[simp] theorem takeScan_frame (k : Fin 30) (o : TxnOutcome) (s : State) :
    (takeScan k o s).window = s.window ∧ (takeScan k o s).line = s.line ∧ (takeScan k o s).link = s.link ∧
    (takeScan k o s).sched = s.sched ∧ (takeScan k o s).areas = s.areas ∧ (takeScan k o s).pending = s.pending := by
  unfold takeScan
  (try dsimp only)
  (repeat' split) <;> simp

@[simp] theorem cycleEndCopy_frame (s : State) :
    (cycleEndCopy s).window = s.window ∧ (cycleEndCopy s).line = s.line ∧ (cycleEndCopy s).link = s.link ∧
    (cycleEndCopy s).sched = s.sched ∧ (cycleEndCopy s).table = s.table ∧ (cycleEndCopy s).exch = s.exch ∧
    (cycleEndCopy s).areas = s.areas ∧ (cycleEndCopy s).notices = s.notices ∧
    (cycleEndCopy s).pending = s.pending := by
  unfold cycleEndCopy
  (try dsimp only)
  (repeat' split) <;> simp

@[simp] theorem advanceSupervision_frame (s : State) :
    (advanceSupervision s).window = s.window ∧ (advanceSupervision s).line = s.line ∧
    (advanceSupervision s).link = s.link ∧ (advanceSupervision s).sched = s.sched ∧
    (advanceSupervision s).table = s.table ∧ (advanceSupervision s).exch = s.exch ∧
    (advanceSupervision s).areas = s.areas ∧ (advanceSupervision s).pending = s.pending := by
  unfold advanceSupervision
  (try dsimp only)
  (repeat' split) <;> simp

@[simp] theorem imageCycleStart_frame (s : State) :
    (imageCycleStart s).window = s.window ∧ (imageCycleStart s).line = s.line ∧ (imageCycleStart s).link = s.link ∧
    (imageCycleStart s).sched = s.sched ∧ (imageCycleStart s).table = s.table ∧ (imageCycleStart s).exch = s.exch ∧
    (imageCycleStart s).areas = s.areas ∧ (imageCycleStart s).pending = s.pending := by
  unfold imageCycleStart
  (try dsimp only)
  (repeat' split) <;> simp

@[simp] theorem overrunReport_frame (x : CycleStatus) (c : Nat) (s : State) :
    (overrunReport x c s).window = s.window ∧ (overrunReport x c s).line = s.line ∧
    (overrunReport x c s).link = s.link ∧ (overrunReport x c s).sched = s.sched ∧
    (overrunReport x c s).table = s.table ∧ (overrunReport x c s).image = s.image ∧
    (overrunReport x c s).exch = s.exch ∧ (overrunReport x c s).areas = s.areas ∧
    (overrunReport x c s).pending = s.pending := by
  unfold overrunReport
  (try dsimp only)
  (repeat' split) <;> simp

@[simp] theorem cycleEnd_frame (x : CycleStatus) (c : Nat) (s : State) :
    (cycleEnd x c s).window = s.window ∧ (cycleEnd x c s).line = s.line ∧ (cycleEnd x c s).link = s.link ∧
    (cycleEnd x c s).exch = s.exch ∧ (cycleEnd x c s).areas = s.areas ∧ (cycleEnd x c s).pending = s.pending := by
  unfold cycleEnd
  (try dsimp only)
  (repeat' split) <;> simp

@[simp] theorem cycleStart_frame (l : Bool) (s : State) :
    (cycleStart l s).window = s.window ∧ (cycleStart l s).link = s.link ∧ (cycleStart l s).table = s.table ∧
    (cycleStart l s).areas = s.areas ∧ (cycleStart l s).pending = s.pending := by
  unfold cycleStart
  (try dsimp only)
  (repeat' split) <;> simp

@[simp] theorem overrunCut_frame (l : Bool) (s : State) :
    (overrunCut l s).window = s.window ∧ (overrunCut l s).link = s.link ∧ (overrunCut l s).areas = s.areas ∧
    (overrunCut l s).pending = s.pending := by
  unfold overrunCut
  (try dsimp only)
  (repeat' split) <;> simp

@[simp] theorem probeStage_frame (s : State) :
    (probeStage s).window = s.window ∧ (probeStage s).link = s.link ∧ (probeStage s).table = s.table ∧
    (probeStage s).image = s.image ∧ (probeStage s).exch = s.exch ∧ (probeStage s).areas = s.areas ∧
    (probeStage s).notices = s.notices ∧ (probeStage s).pending = s.pending := by
  unfold probeStage
  (try dsimp only)
  (repeat' split) <;> simp

@[simp] theorem markWaitArea_frame (n : Fin 8) (b : Bool) (s : State) :
    (markWaitArea n b s).window = s.window ∧ (markWaitArea n b s).line = s.line ∧
    (markWaitArea n b s).link = s.link ∧ (markWaitArea n b s).sched = s.sched ∧
    (markWaitArea n b s).table = s.table ∧ (markWaitArea n b s).image = s.image ∧
    (markWaitArea n b s).areas = s.areas ∧ (markWaitArea n b s).notices = s.notices ∧
    (markWaitArea n b s).pending = s.pending := by
  unfold markWaitArea
  (try dsimp only)
  (repeat' split) <;> simp

@[simp] theorem judgeSlot_frame (n : Fin 8) (s : State) :
    (judgeSlot n s).window = s.window ∧ (judgeSlot n s).line = s.line ∧ (judgeSlot n s).link = s.link ∧
    (judgeSlot n s).sched = s.sched ∧ (judgeSlot n s).table = s.table ∧ (judgeSlot n s).image = s.image ∧
    (judgeSlot n s).areas = s.areas ∧ (judgeSlot n s).notices = s.notices ∧ (judgeSlot n s).pending = s.pending := by
  unfold judgeSlot
  (try dsimp only)
  (repeat' split) <;> simp

@[simp] theorem searchSlots_frame (l : List (Fin 8)) (s : State) :
    ((searchSlots l s).1).window = s.window ∧ ((searchSlots l s).1).line = s.line ∧
    ((searchSlots l s).1).link = s.link ∧ ((searchSlots l s).1).sched = s.sched ∧
    ((searchSlots l s).1).table = s.table ∧ ((searchSlots l s).1).image = s.image ∧
    ((searchSlots l s).1).areas = s.areas ∧ ((searchSlots l s).1).notices = s.notices ∧
    ((searchSlots l s).1).pending = s.pending := by
  induction l generalizing s with
  | nil => simp [searchSlots]
  | cons n l ih => unfold searchSlots; split <;> simp [ih]

@[simp] theorem leaveQueue_frame (n : Fin 8) (s : State) :
    (leaveQueue n s).window = s.window ∧ (leaveQueue n s).line = s.line ∧ (leaveQueue n s).link = s.link ∧
    (leaveQueue n s).sched = s.sched ∧ (leaveQueue n s).image = s.image ∧ (leaveQueue n s).areas = s.areas ∧
    (leaveQueue n s).notices = s.notices ∧ (leaveQueue n s).pending = s.pending := by
  unfold leaveQueue
  (try dsimp only)
  (repeat' split) <;> simp

@[simp] theorem startSlot_frame (n : Fin 8) (s : State) :
    (startSlot n s).window = s.window ∧ (startSlot n s).link = s.link ∧ (startSlot n s).image = s.image ∧
    (startSlot n s).areas = s.areas ∧ (startSlot n s).notices = s.notices ∧ (startSlot n s).pending = s.pending := by
  unfold startSlot
  (try dsimp only)
  (repeat' split) <;> simp

@[simp] theorem acyclicPick_frame (s : State) :
    (acyclicPick s).window = s.window ∧ (acyclicPick s).link = s.link ∧ (acyclicPick s).image = s.image ∧
    (acyclicPick s).areas = s.areas ∧ (acyclicPick s).notices = s.notices ∧ (acyclicPick s).pending = s.pending := by
  unfold acyclicPick
  split
  · split <;> simp
  · have h := searchSlots_frame (slotOrder s.sched.rrPtr) s
    split <;> (try split) <;> simp_all

@[simp] theorem enterAcyclic_frame (s : State) :
    (enterAcyclic s).window = s.window ∧ (enterAcyclic s).link = s.link ∧ (enterAcyclic s).image = s.image ∧
    (enterAcyclic s).areas = s.areas ∧ (enterAcyclic s).notices = s.notices ∧
    (enterAcyclic s).pending = s.pending := by
  unfold enterAcyclic
  (try dsimp only)
  (repeat' split) <;> simp

@[simp] theorem walk_frame (s : State) :
    (walk s).window = s.window ∧ (walk s).link = s.link ∧ (walk s).areas = s.areas ∧
    (walk s).pending = s.pending := by
  unfold walk
  (try dsimp only)
  (repeat' split) <;> simp

@[simp] theorem routeSlot_frame (k : Fin 30) (o : TxnOutcome) (s : State) :
    (routeSlot k o s).window = s.window ∧ (routeSlot k o s).line = s.line ∧ (routeSlot k o s).link = s.link ∧
    (routeSlot k o s).sched = s.sched ∧ (routeSlot k o s).image = s.image ∧
    (routeSlot k o s).pending = s.pending := by
  unfold routeSlot
  (try dsimp only)
  (repeat' split) <;> simp

@[simp] theorem routeTo_frame (q : RequestKind) (k : Fin 30) (o : TxnOutcome) (s : State) :
    (routeTo q k o s).window = s.window ∧ (routeTo q k o s).line = s.line ∧ (routeTo q k o s).link = s.link ∧
    (routeTo q k o s).pending = s.pending := by
  unfold routeTo
  (try dsimp only)
  (repeat' split) <;> simp

@[simp] theorem routeOutcome_frame (t : Txn) (o : TxnOutcome) (s : State) :
    (routeOutcome t o s).window = s.window ∧ (routeOutcome t o s).line = s.line ∧
    (routeOutcome t o s).link = s.link ∧ (routeOutcome t o s).pending = s.pending := by
  unfold routeOutcome
  (try dsimp only)
  (repeat' split) <;> simp

@[simp] theorem enterScan_frame (s : State) :
    (enterScan s).window = s.window ∧ (enterScan s).line = s.line ∧ (enterScan s).link = s.link ∧
    (enterScan s).table = s.table ∧ (enterScan s).image = s.image ∧ (enterScan s).exch = s.exch ∧
    (enterScan s).areas = s.areas ∧ (enterScan s).notices = s.notices ∧ (enterScan s).pending = s.pending := by
  simp [enterScan]

@[simp] theorem nextDecision_frame (s : State) :
    (nextDecision s).window = s.window ∧ (nextDecision s).link = s.link ∧ (nextDecision s).areas = s.areas ∧
    (nextDecision s).pending = s.pending := by
  unfold nextDecision
  (try dsimp only)
  (repeat' split) <;> simp

@[simp] theorem decideInOrder_frame (order : EndOrder) (s : State) :
    (decideInOrder order s).window = s.window ∧ (decideInOrder order s).link = s.link ∧
    (decideInOrder order s).areas = s.areas ∧ (decideInOrder order s).pending = s.pending := by
  unfold decideInOrder
  (repeat' split) <;> simp

@[simp] theorem linkDownStep_frame (c : Condition) (s : State) :
    (linkDownStep c s).window = s.window ∧ (linkDownStep c s).line = s.line ∧ (linkDownStep c s).link = s.link ∧
    (linkDownStep c s).areas = s.areas ∧ (linkDownStep c s).pending = s.pending := by
  unfold linkDownStep
  (try dsimp only)
  (repeat' split) <;> simp

@[simp] theorem enterFault_frame (c : LinkCause) (s : State) :
    (enterFault c s).window = s.window ∧ (enterFault c s).areas = s.areas ∧ (enterFault c s).pending = s.pending := by
  unfold enterFault
  (try dsimp only)
  (repeat' split) <;> simp

@[simp] theorem enterOff_frame (s : State) :
    (enterOff s).window = s.window ∧ (enterOff s).areas = s.areas ∧ (enterOff s).pending = s.pending := by
  unfold enterOff
  (try dsimp only)
  (repeat' split) <;> simp

@[simp] theorem stoppedCycleEnd_frame (s : State) :
    (stoppedCycleEnd s).window = s.window ∧ (stoppedCycleEnd s).line = s.line ∧ (stoppedCycleEnd s).link = s.link ∧
    (stoppedCycleEnd s).exch = s.exch ∧ (stoppedCycleEnd s).areas = s.areas ∧
    (stoppedCycleEnd s).pending = s.pending := by
  unfold stoppedCycleEnd
  (try dsimp only)
  (repeat' split) <;> simp

@[simp] theorem stopDone_frame (s : State) :
    (stopDone s).window = s.window ∧ (stopDone s).areas = s.areas ∧ (stopDone s).pending = s.pending := by
  unfold stopDone
  (try dsimp only)
  (repeat' split) <;> simp

@[simp] theorem afterOutcome_frame (o : TxnOutcome) (order : EndOrder) (s : State) :
    (afterOutcome o order s).window = s.window ∧ (afterOutcome o order s).areas = s.areas ∧
    (afterOutcome o order s).pending = s.pending := by
  unfold afterOutcome
  (try dsimp only)
  (repeat' split) <;> simp

@[simp] theorem endTxn_frame (t : Txn) (o : TxnOutcome) (order : EndOrder) (s : State) :
    (endTxn t o order s).window = s.window ∧ (endTxn t o order s).pending = s.pending := by
  unfold endTxn
  (try dsimp only)
  (repeat' split) <;> simp

@[simp] theorem cutTxn_frame (s : State) :
    (cutTxn s).window = s.window ∧ (cutTxn s).link = s.link ∧ (cutTxn s).pending = s.pending := by
  unfold cutTxn
  (try dsimp only)
  (repeat' split) <;> simp

end Sys2Proof.Machine
end

