-- ==== Sys2Proof/Laws/Access.lean ====
section
/-! SUPPORT. The course of a host access: what UNIT and INDEX select, where INDEX goes, and how a write and a command close. -/

namespace Sys2Proof.Machine

/-! ### The register maps -/

/-- The registers at which INDEX stays (R181). -/
def Reg.keepsIndex : Reg → Bool
  | .command _ | .result _ | .dataPort => true
  | _ => false

/-- At every index of every unit: INDEX stays where R181 says, COMMAND and RESULT stand at 00h and 01h under their own
unit, and a low byte has its high byte at the next index. -/
def mapRowLawful (u : UnitId) (i : Nat) : Bool :=
  match regAt u i with
  | none => true
  | some r =>
    r.keepsIndex == (i == 0 || i == 1 || (u == .areas && i == 8)) &&
    (match r with
      | .command v => v == u && i == 0
      | .result v => v == u && i == 1
      | .dataPort => u == .areas && i == 8
      | .lo f => decide (i + 1 < 256) && regAt u (i + 1) == some (.hi f)
      | _ => true)

theorem mapRowsLawful (u : UnitId) : ∀ i : Fin 256, mapRowLawful u i.val = true := by
  cases u <;> decide +kernel

theorem State.selection_eq_reg {s : State} {r : Reg} (h : s.selection = .reg r) :
    ∃ u, unitOf s.window.unit = some u ∧ regAt u s.window.index.toNat = some r ∧
      mapRowLawful u s.window.index.toNat = true := by
  simp only [State.selection, RegisterWindow.selection] at h
  split at h
  · cases h
  · next u hu =>
    split at h
    · cases h
    · next r' hr =>
      cases h
      exact ⟨u, hu, hr, mapRowsLawful u ⟨s.window.index.toNat, s.window.index.isLt⟩⟩

/-! ### INDEX -/

theorem State.indexStays_eq {s : State} {r : Reg} (h : s.selection = .reg r) :
    s.window.indexStays = r.keepsIndex := by
  obtain ⟨u, hu, hr, hl⟩ := State.selection_eq_reg h
  simp only [mapRowLawful, hr, Bool.and_eq_true, beq_iff_eq] at hl
  simp only [RegisterWindow.indexStays, hu, hl.1]
  have e : ∀ n : Nat, n < 256 → (s.window.index == BitVec.ofNat 8 n) = (s.window.index.toNat == n) := by
    intro n hn
    rw [Bool.eq_iff_iff, beq_iff_eq, beq_iff_eq, ← BitVec.toNat_inj, BitVec.toNat_ofNat, Nat.mod_eq_of_lt hn]
  rw [← e 0 (by omega), ← e 1 (by omega), ← e 8 (by omega)]

/-- Where the register selected keeps INDEX, INDEX is COMMAND's, RESULT's or the data port's. -/
theorem State.keepsIndex_iff {s : State} {r : Reg} (h : s.selection = .reg r) :
    r.keepsIndex = true ↔ s.window.index = 0#8 ∨ s.window.index = 1#8 ∨ r = .dataPort := by
  obtain ⟨u, hu, hr, hl⟩ := State.selection_eq_reg h
  simp only [mapRowLawful, hr, Bool.and_eq_true, beq_iff_eq] at hl
  have e : ∀ n : Nat, n < 256 → (s.window.index = BitVec.ofNat 8 n ↔ s.window.index.toNat = n) := by
    intro n hn
    rw [← BitVec.toNat_inj, BitVec.toNat_ofNat, Nat.mod_eq_of_lt hn]
  rw [show (0#8) = BitVec.ofNat 8 0 from rfl, show (1#8) = BitVec.ofNat 8 1 from rfl, e 0 (by omega), e 1 (by omega)]
  constructor
  · intro hk
    cases r <;> simp_all [Reg.keepsIndex]
  · rintro (h0 | h0 | h0)
    · rw [hl.1, h0]; rfl
    · rw [hl.1, h0]; rfl
    · rw [h0]; rfl

/-- A DATA access that left UNIT and INDEX alone closes as R181 and R182 say. -/
theorem State.finishAccess_eq {s t : State} {r : Reg} (h : s.selection = .reg r)
    (hu : t.window.unit = s.window.unit) (hi : t.window.index = s.window.index) :
    t.finishAccess = if r.keepsIndex then t.emptyLatch else stepped t := by
  have hw : t.window.indexStays = r.keepsIndex := by
    rw [← State.indexStays_eq h]; simp only [RegisterWindow.indexStays, hu, hi]
  simp only [State.finishAccess, State.advanceIndex, RegisterWindow.nextIndex, hw]
  cases r.keepsIndex <;> rfl

theorem State.finishAccess_stepped {s t : State} {r : Reg} (h : s.selection = .reg r) (hk : r.keepsIndex = false)
    (hu : t.window.unit = s.window.unit) (hi : t.window.index = s.window.index) : t.finishAccess = stepped t := by
  rw [State.finishAccess_eq h hu hi, hk]; rfl

theorem State.finishAccess_kept {s t : State} {r : Reg} (h : s.selection = .reg r) (hk : r.keepsIndex = true)
    (hu : t.window.unit = s.window.unit) (hi : t.window.index = s.window.index) : t.finishAccess = t.emptyLatch := by
  rw [State.finishAccess_eq h hu hi, hk]; rfl

/-- Past the high byte of a field, the next index reads its own register (R182). -/
theorem State.selection_lo {s : State} {f : Field16} (h : s.selection = .reg (.lo f)) :
    ({ s with window := { s.window with index := s.window.index + 1#8 } } : State).selection = .reg (.hi f) := by
  obtain ⟨u, hu, hr, hl⟩ := State.selection_eq_reg h
  simp only [mapRowLawful, hr, Bool.and_eq_true, beq_iff_eq, decide_eq_true_eq] at hl
  have e : (s.window.index + 1#8).toNat = s.window.index.toNat + 1 := by
    rw [BitVec.toNat_add, BitVec.toNat_ofNat, Nat.mod_eq_of_lt (by omega : 1 < 2 ^ 8)]
    exact Nat.mod_eq_of_lt (by omega)
  simp only [State.selection, RegisterWindow.selection, hu, e, hl.2.2]

/-! ### Window errors -/

/-- A window error is the record written as R184 says, and WINDOW_ERROR raised. -/
theorem State.windowError_eq (c : WindowCause) (s : State) : s.windowError c = erred c s := rfl

@[simp] theorem erred_unit (c : WindowCause) (s : State) : (erred c s).window.unit = s.window.unit := rfl
@[simp] theorem erred_index (c : WindowCause) (s : State) : (erred c s).window.index = s.window.index := rfl

/-! ### Accesses of no register -/

theorem State.indexStays_noUnit {s : State} (h : s.selection = .noUnit) : s.window.indexStays = false := by
  simp only [State.selection, RegisterWindow.selection] at h
  split at h
  · next hu => simp only [RegisterWindow.indexStays, hu]
  · split at h <;> cases h

theorem State.indexStays_noIndex {s : State} (h : s.selection = .noIndex) : s.window.indexStays = false := by
  simp only [State.selection, RegisterWindow.selection] at h
  split at h
  · cases h
  · next u hu =>
    split at h
    · next hr =>
      have e : ∀ i : Fin 256, regAt u i.val = none → i.val ≠ 0 ∧ i.val ≠ 1 ∧ ¬(u = .areas ∧ i.val = 8) := by
        cases u <;> decide +kernel
      have e' := e ⟨s.window.index.toNat, s.window.index.isLt⟩ hr
      have z : ∀ n : Nat, n < 256 → (s.window.index = BitVec.ofNat 8 n → s.window.index.toNat = n) := by
        intro n hn hz; rw [hz, BitVec.toNat_ofNat, Nat.mod_eq_of_lt hn]
      simp only [RegisterWindow.indexStays, hu, Bool.or_eq_false_iff, Bool.and_eq_false_iff, beq_eq_false_iff_ne]
      refine ⟨⟨fun h0 => e'.1 (z 0 (by omega) h0), fun h1 => e'.2.1 (z 1 (by omega) h1)⟩, ?_⟩
      by_cases hx : u = .areas
      · exact Or.inr (fun h8 => e'.2.2 ⟨hx, z 8 (by omega) h8⟩)
      · exact Or.inl hx
    · cases h

theorem State.finishAccess_off {t : State} (h : t.window.indexStays = false) : t.finishAccess = stepped t := by
  simp only [State.finishAccess, State.advanceIndex, RegisterWindow.nextIndex, h]; rfl

/-! ### Writes and commands -/

/-- A row's write at a register of its class: the effect, then the close of the access. -/
theorem onWrite_eq {c : WriteClass} {f : Reg → State → State} {s : State} {r : Reg} (h : s.atReg r)
    (hc : r.writeClass s.image.select = c) : onWrite c f s = (f r s).finishAccess := by
  simp [onWrite, h.1, h.2, hc]

/-- A row's write where UNIT and INDEX select a register of another class. -/
theorem onWrite_other {c : WriteClass} {f : Reg → State → State} {s : State} {r : Reg} (h : s.selection = .reg r)
    (hc : r.writeClass s.image.select ≠ c) : onWrite c f s = s := by
  simp [onWrite, h, hc]

/-- A row's write at a register that lets INDEX go on, with an effect that leaves UNIT and INDEX. -/
theorem onWrite_stepped {c : WriteClass} {f : Reg → State → State} {s : State} {r : Reg} (h : s.atReg r)
    (hc : r.writeClass s.image.select = c) (hk : r.keepsIndex = false)
    (hu : (f r s).window.unit = s.window.unit) (hi : (f r s).window.index = s.window.index) :
    onWrite c f s = stepped (f r s) := by
  rw [onWrite_eq h hc, State.finishAccess_stepped h.2 hk hu hi]

/-- The same with the state the effect leads to named. -/
theorem onWrite_takes {c : WriteClass} {f : Reg → State → State} {s t : State} {r : Reg} (h : s.atReg r)
    (hc : r.writeClass s.image.select = c) (hk : r.keepsIndex = false) (ht : f r s = t)
    (hu : t.window.unit = s.window.unit) (hi : t.window.index = s.window.index) : onWrite c f s = stepped t := by
  subst ht; exact onWrite_stepped h hc hk hu hi

theorem State.atCommand_iff (s : State) (u : UnitId) : s.atCommand u = true ↔ s.atReg (.command u) := by
  simp [State.atCommand, State.atReg]

/-- A command that leaves UNIT and INDEX is taken and answered (R183). -/
theorem onCommand_answered {u : UnitId} {code : Byte} {take : State → Taken} {s : State} (h : s.atCommand u = true)
    (hu : (take s).state.window.unit = s.window.unit) (hi : (take s).state.window.index = s.window.index) :
    onCommand u code take s = answered u code (take s).result (take s).state := by
  have h' := (State.atCommand_iff s u).mp h
  have e : onCommand u code take s = (storeCommand u code (take s).result (take s).state).finishAccess := by
    simp [onCommand, h]
  rw [e, State.finishAccess_kept (s := s) h'.2 rfl]
  · rfl
  · exact hu
  · exact hi

/-- A command not at its unit's COMMAND register is no event. -/
theorem onCommand_off {u : UnitId} {code : Byte} {take : State → Taken} {s : State} (h : s.atCommand u = false) :
    onCommand u code take s = s := by simp [onCommand, h]

/-- What holds of a state as it stands and of every effect closed holds of a row's write. -/
theorem onWrite_cases {c : WriteClass} {f : Reg → State → State} {s : State} {P : State → Prop} (h0 : P s)
    (h : ∀ r, s.atReg r → r.writeClass s.image.select = c → P ((f r s).finishAccess)) : P (onWrite c f s) := by
  simp only [onWrite]
  split
  · next r hr =>
    split
    · next hc =>
      simp only [Bool.and_eq_true, Bool.not_eq_true', beq_iff_eq] at hc
      exact h r ⟨hc.1, hr⟩ hc.2
    · exact h0
  · exact h0
  · exact h0

/-- What holds of a state as it stands and of the command taken and answered holds of a command. -/
theorem onCommand_cases {u : UnitId} {code : Byte} {take : State → Taken} {s : State} {P : State → Prop} (h0 : P s)
    (h : s.atCommand u = true → P ((storeCommand u code (take s).result (take s).state).finishAccess)) :
    P (onCommand u code take s) := by
  simp only [onCommand]
  split
  · next hc => exact h hc
  · exact h0

end Sys2Proof.Machine
end

