-- ==== Sys2Proof/Laws/Commands.lean ====
section
/-! SUPPORT. For each command and each register write, one lemma: the blocks of State its effect leaves as they are. -/

namespace Sys2Proof.Machine

set_option linter.unusedTactic false
set_option linter.unnecessarySeqFocus false
set_option linter.unreachableTactic false

@[simp] theorem accept_state (s : State) : (accept s).state = s := rfl
@[simp] theorem accept_result (s : State) : (accept s).result = .accepted := rfl
@[simp] theorem refuse_state (r : ResultCode) (s : State) : (refuse r s).state = s := rfl
@[simp] theorem refuse_result (r : ResultCode) (s : State) : (refuse r s).result = r := rfl

@[simp] theorem startLink_frame (s : State) :
    (startLink s).window = s.window ∧ (startLink s).sched = s.sched ∧ (startLink s).table = s.table ∧
    (startLink s).image = s.image ∧ (startLink s).exch = s.exch ∧ (startLink s).areas = s.areas ∧
    (startLink s).pending = s.pending := by
  unfold startLink
  (try dsimp only)
  (repeat' split) <;> simp

@[simp] theorem stopLink_frame (s : State) :
    (stopLink s).window = s.window ∧ (stopLink s).areas = s.areas ∧ (stopLink s).pending = s.pending := by
  unfold stopLink
  (try dsimp only)
  (repeat' split) <;> simp

@[simp] theorem bindArea_frame (n : Fin 8) (h : SlotHost) (s : State) :
    (bindArea n h s).window = s.window ∧ (bindArea n h s).line = s.line ∧ (bindArea n h s).link = s.link ∧
    (bindArea n h s).sched = s.sched ∧ (bindArea n h s).table = s.table ∧ (bindArea n h s).image = s.image ∧
    (bindArea n h s).exch = s.exch ∧ (bindArea n h s).notices = s.notices ∧ (bindArea n h s).pending = s.pending := by
  unfold bindArea
  (try dsimp only)
  (repeat' split) <;> simp

@[simp] theorem unbindArea_frame (h : SlotHost) (s : State) :
    (unbindArea h s).window = s.window ∧ (unbindArea h s).line = s.line ∧ (unbindArea h s).link = s.link ∧
    (unbindArea h s).sched = s.sched ∧ (unbindArea h s).table = s.table ∧ (unbindArea h s).image = s.image ∧
    (unbindArea h s).exch = s.exch ∧ (unbindArea h s).notices = s.notices ∧ (unbindArea h s).pending = s.pending := by
  unfold unbindArea
  (try dsimp only)
  (repeat' split) <;> simp

@[simp] theorem clearRun_frame (n : Fin 8) (s : State) :
    (clearRun n s).window = s.window ∧ (clearRun n s).line = s.line ∧ (clearRun n s).link = s.link ∧
    (clearRun n s).sched = s.sched ∧ (clearRun n s).table = s.table ∧ (clearRun n s).image = s.image ∧
    (clearRun n s).areas = s.areas ∧ (clearRun n s).notices = s.notices ∧ (clearRun n s).pending = s.pending := by
  unfold clearRun
  (try dsimp only)
  (repeat' split) <;> simp

@[simp] theorem postSlot_frame (n : Fin 8) (s : State) :
    (postSlot n s).window = s.window ∧ (postSlot n s).line = s.line ∧ (postSlot n s).link = s.link ∧
    (postSlot n s).sched = s.sched ∧ (postSlot n s).image = s.image ∧ (postSlot n s).notices = s.notices ∧
    (postSlot n s).pending = s.pending := by
  unfold postSlot
  (try dsimp only)
  (repeat' split) <;> simp

@[simp] theorem oweCancel_frame (n : Fin 8) (s : State) :
    (oweCancel n s).window = s.window ∧ (oweCancel n s).line = s.line ∧ (oweCancel n s).link = s.link ∧
    (oweCancel n s).sched = s.sched ∧ (oweCancel n s).image = s.image ∧ (oweCancel n s).exch = s.exch ∧
    (oweCancel n s).areas = s.areas ∧ (oweCancel n s).notices = s.notices ∧ (oweCancel n s).pending = s.pending := by
  unfold oweCancel
  (try dsimp only)
  (repeat' split) <;> simp

@[simp] theorem retireSlot_frame (n : Fin 8) (s : State) :
    (retireSlot n s).window = s.window ∧ (retireSlot n s).line = s.line ∧ (retireSlot n s).link = s.link ∧
    (retireSlot n s).sched = s.sched ∧ (retireSlot n s).image = s.image ∧ (retireSlot n s).notices = s.notices ∧
    (retireSlot n s).pending = s.pending := by
  unfold retireSlot
  (try dsimp only)
  (repeat' split) <;> simp

@[simp] theorem abortQueued_frame (n : Fin 8) (s : State) :
    (abortQueued n s).window = s.window ∧ (abortQueued n s).line = s.line ∧ (abortQueued n s).link = s.link ∧
    (abortQueued n s).sched = s.sched ∧ (abortQueued n s).image = s.image ∧ (abortQueued n s).areas = s.areas ∧
    (abortQueued n s).pending = s.pending := by
  unfold abortQueued
  (try dsimp only)
  (repeat' split) <;> simp

@[simp] theorem abortInFlight_frame (n : Fin 8) (s : State) :
    (abortInFlight n s).window = s.window ∧ (abortInFlight n s).line = s.line ∧ (abortInFlight n s).link = s.link ∧
    (abortInFlight n s).sched = s.sched ∧ (abortInFlight n s).table = s.table ∧ (abortInFlight n s).image = s.image ∧
    (abortInFlight n s).areas = s.areas ∧ (abortInFlight n s).notices = s.notices ∧
    (abortInFlight n s).pending = s.pending := by
  unfold abortInFlight
  (try dsimp only)
  (repeat' split) <;> simp

@[simp] theorem takeStart_frame (s : State) :
    (takeStart s).state.window = s.window ∧ (takeStart s).state.sched = s.sched ∧
    (takeStart s).state.table = s.table ∧ (takeStart s).state.image = s.image ∧ (takeStart s).state.exch = s.exch ∧
    (takeStart s).state.areas = s.areas ∧ (takeStart s).state.pending = s.pending := by
  unfold takeStart
  (try dsimp only)
  (repeat' split) <;> simp

@[simp] theorem takeRun_frame (s : State) :
    (takeRun s).state.window = s.window ∧ (takeRun s).state.table = s.table ∧ (takeRun s).state.areas = s.areas ∧
    (takeRun s).state.pending = s.pending := by
  unfold takeRun
  (try dsimp only)
  (repeat' split) <;> simp

@[simp] theorem takeStop_frame (s : State) :
    (takeStop s).state.window = s.window ∧ (takeStop s).state.areas = s.areas ∧
    (takeStop s).state.pending = s.pending := by
  unfold takeStop
  (try dsimp only)
  (repeat' split) <;> simp

@[simp] theorem takeShutdown_frame (s : State) :
    (takeShutdown s).state.window = s.window ∧ (takeShutdown s).state.pending = s.pending := by
  unfold takeShutdown
  (try dsimp only)
  (repeat' split) <;> simp

@[simp] theorem takeExpect_frame (s : State) :
    (takeExpect s).state.window = s.window ∧ (takeExpect s).state.line = s.line ∧
    (takeExpect s).state.link = s.link ∧ (takeExpect s).state.sched = s.sched ∧
    (takeExpect s).state.image = s.image ∧ (takeExpect s).state.exch = s.exch ∧
    (takeExpect s).state.areas = s.areas ∧ (takeExpect s).state.notices = s.notices ∧
    (takeExpect s).state.pending = s.pending := by
  unfold takeExpect
  (try dsimp only)
  (repeat' split) <;> simp

@[simp] theorem takeAdopt_frame (s : State) :
    (takeAdopt s).state.window = s.window ∧ (takeAdopt s).state.line = s.line ∧ (takeAdopt s).state.link = s.link ∧
    (takeAdopt s).state.sched = s.sched ∧ (takeAdopt s).state.image = s.image ∧ (takeAdopt s).state.exch = s.exch ∧
    (takeAdopt s).state.areas = s.areas ∧ (takeAdopt s).state.notices = s.notices ∧
    (takeAdopt s).state.pending = s.pending := by
  unfold takeAdopt
  (try dsimp only)
  (repeat' split) <;> simp

@[simp] theorem takeForget_frame (s : State) :
    (takeForget s).state.window = s.window ∧ (takeForget s).state.line = s.line ∧
    (takeForget s).state.link = s.link ∧ (takeForget s).state.sched = s.sched ∧
    (takeForget s).state.image = s.image ∧ (takeForget s).state.exch = s.exch ∧
    (takeForget s).state.areas = s.areas ∧ (takeForget s).state.notices = s.notices ∧
    (takeForget s).state.pending = s.pending := by
  unfold takeForget
  (try dsimp only)
  (repeat' split) <;> simp

@[simp] theorem takeDisable_frame (s : State) :
    (takeDisable s).state.window = s.window ∧ (takeDisable s).state.line = s.line ∧
    (takeDisable s).state.link = s.link ∧ (takeDisable s).state.sched = s.sched ∧
    (takeDisable s).state.image = s.image ∧ (takeDisable s).state.exch = s.exch ∧
    (takeDisable s).state.areas = s.areas ∧ (takeDisable s).state.notices = s.notices ∧
    (takeDisable s).state.pending = s.pending := by
  unfold takeDisable
  (try dsimp only)
  (repeat' split) <;> simp

@[simp] theorem takeEnable_frame (s : State) :
    (takeEnable s).state.window = s.window ∧ (takeEnable s).state.line = s.line ∧
    (takeEnable s).state.link = s.link ∧ (takeEnable s).state.sched = s.sched ∧
    (takeEnable s).state.image = s.image ∧ (takeEnable s).state.exch = s.exch ∧
    (takeEnable s).state.areas = s.areas ∧ (takeEnable s).state.notices = s.notices ∧
    (takeEnable s).state.pending = s.pending := by
  unfold takeEnable
  (try dsimp only)
  (repeat' split) <;> simp

@[simp] theorem takeCommit_frame (s : State) :
    (takeCommit s).state.window = s.window ∧ (takeCommit s).state.line = s.line ∧
    (takeCommit s).state.link = s.link ∧ (takeCommit s).state.sched = s.sched ∧
    (takeCommit s).state.table = s.table ∧ (takeCommit s).state.exch = s.exch ∧
    (takeCommit s).state.areas = s.areas ∧ (takeCommit s).state.notices = s.notices ∧
    (takeCommit s).state.pending = s.pending := by
  unfold takeCommit
  (try dsimp only)
  (repeat' split) <;> simp

@[simp] theorem takeSnapshot_frame (s : State) :
    (takeSnapshot s).state.window = s.window ∧ (takeSnapshot s).state.line = s.line ∧
    (takeSnapshot s).state.link = s.link ∧ (takeSnapshot s).state.sched = s.sched ∧
    (takeSnapshot s).state.table = s.table ∧ (takeSnapshot s).state.exch = s.exch ∧
    (takeSnapshot s).state.areas = s.areas ∧ (takeSnapshot s).state.notices = s.notices ∧
    (takeSnapshot s).state.pending = s.pending := by
  unfold takeSnapshot
  (try dsimp only)
  (repeat' split) <;> simp

@[simp] theorem takeFreeze_frame (s : State) :
    (takeFreeze s).state.window = s.window ∧ (takeFreeze s).state.line = s.line ∧
    (takeFreeze s).state.link = s.link ∧ (takeFreeze s).state.sched = s.sched ∧
    (takeFreeze s).state.table = s.table ∧ (takeFreeze s).state.exch = s.exch ∧
    (takeFreeze s).state.areas = s.areas ∧ (takeFreeze s).state.notices = s.notices ∧
    (takeFreeze s).state.pending = s.pending := by
  unfold takeFreeze
  (try dsimp only)
  (repeat' split) <;> simp

@[simp] theorem takeRelease_frame (s : State) :
    (takeRelease s).state.window = s.window ∧ (takeRelease s).state.line = s.line ∧
    (takeRelease s).state.link = s.link ∧ (takeRelease s).state.sched = s.sched ∧
    (takeRelease s).state.table = s.table ∧ (takeRelease s).state.exch = s.exch ∧
    (takeRelease s).state.areas = s.areas ∧ (takeRelease s).state.notices = s.notices ∧
    (takeRelease s).state.pending = s.pending := by
  unfold takeRelease
  (try dsimp only)
  (repeat' split) <;> simp

@[simp] theorem takePost_frame (s : State) :
    (takePost s).state.window = s.window ∧ (takePost s).state.line = s.line ∧ (takePost s).state.link = s.link ∧
    (takePost s).state.sched = s.sched ∧ (takePost s).state.image = s.image ∧
    (takePost s).state.notices = s.notices ∧ (takePost s).state.pending = s.pending := by
  unfold takePost
  (try dsimp only)
  (repeat' split) <;> simp

@[simp] theorem takeRetire_frame (s : State) :
    (takeRetire s).state.window = s.window ∧ (takeRetire s).state.line = s.line ∧
    (takeRetire s).state.link = s.link ∧ (takeRetire s).state.sched = s.sched ∧
    (takeRetire s).state.image = s.image ∧ (takeRetire s).state.notices = s.notices ∧
    (takeRetire s).state.pending = s.pending := by
  unfold takeRetire
  (try dsimp only)
  (repeat' split) <;> simp

@[simp] theorem takeRestart_frame (s : State) :
    (takeRestart s).state.window = s.window ∧ (takeRestart s).state.line = s.line ∧
    (takeRestart s).state.link = s.link ∧ (takeRestart s).state.sched = s.sched ∧
    (takeRestart s).state.image = s.image ∧ (takeRestart s).state.areas = s.areas ∧
    (takeRestart s).state.notices = s.notices ∧ (takeRestart s).state.pending = s.pending := by
  unfold takeRestart
  (try dsimp only)
  (repeat' split) <;> simp

@[simp] theorem takeAbort_frame (s : State) :
    (takeAbort s).state.window = s.window ∧ (takeAbort s).state.line = s.line ∧ (takeAbort s).state.link = s.link ∧
    (takeAbort s).state.sched = s.sched ∧ (takeAbort s).state.image = s.image ∧ (takeAbort s).state.areas = s.areas ∧
    (takeAbort s).state.pending = s.pending := by
  unfold takeAbort
  (try dsimp only)
  (repeat' split) <;> simp

@[simp] theorem takeResume_frame (s : State) :
    (takeResume s).state.window = s.window ∧ (takeResume s).state.line = s.line ∧
    (takeResume s).state.link = s.link ∧ (takeResume s).state.sched = s.sched ∧
    (takeResume s).state.image = s.image ∧ (takeResume s).state.areas = s.areas ∧
    (takeResume s).state.notices = s.notices ∧ (takeResume s).state.pending = s.pending := by
  unfold takeResume
  (try dsimp only)
  (repeat' split) <;> simp

@[simp] theorem takeConfigure_frame (s : State) :
    (takeConfigure s).state.window = s.window ∧ (takeConfigure s).state.line = s.line ∧
    (takeConfigure s).state.link = s.link ∧ (takeConfigure s).state.sched = s.sched ∧
    (takeConfigure s).state.table = s.table ∧ (takeConfigure s).state.image = s.image ∧
    (takeConfigure s).state.exch = s.exch ∧ (takeConfigure s).state.notices = s.notices ∧
    (takeConfigure s).state.pending = s.pending := by
  unfold takeConfigure
  (try dsimp only)
  (repeat' split) <;> simp

@[simp] theorem takeFlush_frame (s : State) :
    (takeFlush s).state.window = s.window ∧ (takeFlush s).state.line = s.line ∧ (takeFlush s).state.link = s.link ∧
    (takeFlush s).state.sched = s.sched ∧ (takeFlush s).state.table = s.table ∧ (takeFlush s).state.image = s.image ∧
    (takeFlush s).state.exch = s.exch ∧ (takeFlush s).state.notices = s.notices ∧
    (takeFlush s).state.pending = s.pending := by
  unfold takeFlush
  (try dsimp only)
  (repeat' split) <;> simp

@[simp] theorem takePop_frame (s : State) :
    (takePop s).state.window = s.window ∧ (takePop s).state.line = s.line ∧ (takePop s).state.link = s.link ∧
    (takePop s).state.sched = s.sched ∧ (takePop s).state.table = s.table ∧ (takePop s).state.image = s.image ∧
    (takePop s).state.exch = s.exch ∧ (takePop s).state.areas = s.areas ∧ (takePop s).state.pending = s.pending := by
  unfold takePop
  (try dsimp only)
  (repeat' split) <;> simp

@[simp] theorem takeClearLost_frame (s : State) :
    (takeClearLost s).state.window = s.window ∧ (takeClearLost s).state.line = s.line ∧
    (takeClearLost s).state.link = s.link ∧ (takeClearLost s).state.sched = s.sched ∧
    (takeClearLost s).state.table = s.table ∧ (takeClearLost s).state.image = s.image ∧
    (takeClearLost s).state.exch = s.exch ∧ (takeClearLost s).state.areas = s.areas ∧
    (takeClearLost s).state.pending = s.pending := by
  unfold takeClearLost
  (try dsimp only)
  (repeat' split) <;> simp

@[simp] theorem writeSubject_frame (u : UnitId) (v : Byte) (s : State) :
    (writeSubject u v s).window = s.window ∧ (writeSubject u v s).line = s.line ∧
    (writeSubject u v s).link = s.link ∧ (writeSubject u v s).sched = s.sched ∧
    (writeSubject u v s).image = s.image ∧ (writeSubject u v s).notices = s.notices ∧
    (writeSubject u v s).pending = s.pending := by
  unfold writeSubject
  (try dsimp only)
  (repeat' split) <;> simp

@[simp] theorem writePlain_frame (v : Byte) (r : Reg) (s : State) :
    (writePlain v r s).window = s.window ∧ (writePlain v r s).line = s.line ∧ (writePlain v r s).link = s.link ∧
    (writePlain v r s).sched = s.sched ∧ (writePlain v r s).notices = s.notices ∧
    (writePlain v r s).pending = s.pending := by
  unfold writePlain
  (try dsimp only)
  (repeat' split) <;> simp

@[simp] theorem putLinkConfig_frame (v : Byte) (r : Reg) (s : State) :
    (putLinkConfig v r s).window = s.window ∧ (putLinkConfig v r s).line = s.line ∧
    (putLinkConfig v r s).sched = s.sched ∧ (putLinkConfig v r s).table = s.table ∧
    (putLinkConfig v r s).image = s.image ∧ (putLinkConfig v r s).exch = s.exch ∧
    (putLinkConfig v r s).areas = s.areas ∧ (putLinkConfig v r s).notices = s.notices ∧
    (putLinkConfig v r s).pending = s.pending := by
  unfold putLinkConfig
  (try dsimp only)
  (repeat' split) <;> simp

@[simp] theorem putCycleLength_frame (v : Byte) (r : Reg) (s : State) :
    (putCycleLength v r s).window = s.window ∧ (putCycleLength v r s).line = s.line ∧
    (putCycleLength v r s).link = s.link ∧ (putCycleLength v r s).table = s.table ∧
    (putCycleLength v r s).image = s.image ∧ (putCycleLength v r s).exch = s.exch ∧
    (putCycleLength v r s).areas = s.areas ∧ (putCycleLength v r s).notices = s.notices ∧
    (putCycleLength v r s).pending = s.pending := by
  unfold putCycleLength
  (try dsimp only)
  (repeat' split) <;> simp

@[simp] theorem putScanList_frame (v : Byte) (r : Reg) (s : State) :
    (putScanList v r s).window = s.window ∧ (putScanList v r s).line = s.line ∧ (putScanList v r s).link = s.link ∧
    (putScanList v r s).table = s.table ∧ (putScanList v r s).image = s.image ∧ (putScanList v r s).exch = s.exch ∧
    (putScanList v r s).areas = s.areas ∧ (putScanList v r s).notices = s.notices ∧
    (putScanList v r s).pending = s.pending := by
  unfold putScanList
  (try dsimp only)
  (repeat' split) <;> simp

@[simp] theorem putStaging_frame (v : Byte) (r : Reg) (s : State) :
    (putStaging v r s).window = s.window ∧ (putStaging v r s).line = s.line ∧ (putStaging v r s).link = s.link ∧
    (putStaging v r s).sched = s.sched ∧ (putStaging v r s).table = s.table ∧ (putStaging v r s).exch = s.exch ∧
    (putStaging v r s).areas = s.areas ∧ (putStaging v r s).notices = s.notices ∧
    (putStaging v r s).pending = s.pending := by
  unfold putStaging
  (try dsimp only)
  (repeat' split) <;> simp

@[simp] theorem putLimit_frame (v : Byte) (r : Reg) (s : State) :
    (putLimit v r s).window = s.window ∧ (putLimit v r s).line = s.line ∧ (putLimit v r s).link = s.link ∧
    (putLimit v r s).sched = s.sched ∧ (putLimit v r s).table = s.table ∧ (putLimit v r s).image = s.image ∧
    (putLimit v r s).areas = s.areas ∧ (putLimit v r s).notices = s.notices ∧
    (putLimit v r s).pending = s.pending := by
  unfold putLimit
  (try dsimp only)
  (repeat' split) <;> simp

@[simp] theorem putStaged_frame (v : Byte) (r : Reg) (s : State) :
    (putStaged v r s).window = s.window ∧ (putStaged v r s).line = s.line ∧ (putStaged v r s).link = s.link ∧
    (putStaged v r s).sched = s.sched ∧ (putStaged v r s).table = s.table ∧ (putStaged v r s).image = s.image ∧
    (putStaged v r s).exch = s.exch ∧ (putStaged v r s).notices = s.notices ∧
    (putStaged v r s).pending = s.pending := by
  unfold putStaged
  (try dsimp only)
  (repeat' split) <;> simp

@[simp] theorem afterExpiry_frame (s : State) :
    (afterExpiry s).window = s.window ∧ (afterExpiry s).link = s.link ∧ (afterExpiry s).areas = s.areas ∧
    (afterExpiry s).pending = s.pending := by
  unfold afterExpiry
  (try dsimp only)
  (repeat' split) <;> simp

/-- A write guarded by the link state leaves UNIT and INDEX where its effect does. -/
theorem whenNoCycles_cases {f : State → State} {s : State} {P : State → Prop} (h0 : P (s.windowError .wrongState))
    (h : s.link.state.cycling = false → P (f s)) : P (whenNoCycles f s) := by
  simp only [whenNoCycles]
  split
  · exact h0
  · next hc => exact h (by simpa using hc)

@[simp] theorem whenAddressed_next {s t u : State} : whenAddressed s t = .next u ↔
    s.regionsInside = true ∧ s.areasInside = true ∧ t = u := by
  simp only [whenAddressed]
  split
  · next h => simp at h; simp [h]
  · next h =>
    split
    · next h2 => simp at h2; simp [h2]
    · next h2 => simp at h h2; simp [h, h2]

end Sys2Proof.Machine
end

