-- ==== Sys2Proof/Laws/Slots.lean ====
section
/-! SUPPORT. Slots and module records after the shared operations that end slots, lose, identify and settle modules, one lemma each. -/

namespace Sys2Proof.Machine

/-! ### Endings of slots -/

theorem SlotState.failed_stands : SlotState.endedByLinkDown .failed = false := rfl

theorem SlotState.aborted_stands : SlotState.inPhase .aborted = false := rfl

theorem enterEnded_slotAt (n : Fin 8) (st : SlotState) (c : Condition) (s : State) (j : Fin 8) :
    (enterEnded n st c s).slotAt j = if j = n then (s.slotAt j).atEnd st c else s.slotAt j := by
  rw [enterEnded, State.slotAt_congr (State.offer_exch _ _), State.slotAt_updSlot]

theorem failSlots_slotAt (c : Condition) (l : List (Fin 8)) (s : State) (j : Fin 8) :
    (failSlots c l s).slotAt j = if j ∈ l then (s.slotAt j).atEnd .failed c else s.slotAt j := by
  induction l generalizing s with
  | nil => simp [failSlots]
  | cons n l ih =>
    rw [failSlots, ih, enterEnded_slotAt]
    by_cases h : j = n
    · subst h; simp [Slot.atEnd]
    · simp [h]

theorem failSlotsDown_slotAt (c : Condition) (l : List (Fin 8)) (s : State) (j : Fin 8) :
    (failSlotsDown c l s).slotAt j =
      if j ∈ l ∧ (s.slotAt j).state.endedByLinkDown = true then (s.slotAt j).atEnd .failed c else s.slotAt j := by
  induction l generalizing s with
  | nil => simp [failSlotsDown]
  | cons n l ih =>
    rw [failSlotsDown, ih]
    by_cases h : j = n
    · subst h
      split
      · next he => simp [enterEnded_slotAt, Slot.atEnd, SlotState.failed_stands, he]
      · next he => simp [he]
    · split <;> simp [enterEnded_slotAt, h]

/-- The later of two replacements of one slot stands. -/
theorem State.setSlot_setSlot (s : State) (n : Fin 8) (x y : Slot) : (s.setSlot n x).setSlot n y = s.setSlot n y := by
  simp [State.setSlot]

/-- The later of two replacements of one module record stands. -/
theorem State.setModule_setModule (s : State) (k : Fin 30) (a b : ModuleRecord) :
    (s.setModule k a).setModule k b = s.setModule k b := by
  simp [State.setModule]

/-- The ending of a slot as one replacement and one notice. -/
theorem enterEnded_eq (n : Fin 8) (st : SlotState) (c : Condition) (s : State) :
    enterEnded n st c s = (s.setSlot n ((s.slotAt n).atEnd st c)).offer
      (.slotEnded n st c (s.slotAt n).run.abortRequested) := rfl

/-- The abort between transactions as one replacement and one notice (R161). -/
theorem abortInPhase_eq (n : Fin 8) (s : State) :
    abortInPhase n s = (s.setSlot n { s.slotAt n with
      state := .aborted
      run := { (s.slotAt n).run with
        recordedPhase := (s.slotAt n).state.phase, condition := .none, waitArea := false, deferred := false,
        abortRequested := false } }).offer (.slotEnded n .aborted .none false) := by
  rw [abortInPhase, enterEnded_eq, State.slotAt_updSlot_same, State.updSlot, State.setSlot_setSlot]
  rfl

theorem abortInPhase_slotAt (n : Fin 8) (s : State) (j : Fin 8) :
    (abortInPhase n s).slotAt j =
      if j = n then { s.slotAt j with
        state := .aborted
        run := { (s.slotAt j).run with
          recordedPhase := (s.slotAt j).state.phase, condition := .none, waitArea := false, deferred := false,
          abortRequested := false } }
      else s.slotAt j := by
  rw [abortInPhase, enterEnded_slotAt]
  by_cases h : j = n
  · subst h; simp [Slot.atEnd]
  · simp [h, State.slotAt_updSlot]

theorem abortSlots_slotAt (l : List (Fin 8)) (s : State) (j : Fin 8) :
    (abortSlots l s).slotAt j =
      if j ∈ l ∧ (s.slotAt j).state.inPhase = true then { s.slotAt j with
        state := .aborted
        run := { (s.slotAt j).run with
          recordedPhase := (s.slotAt j).state.phase, condition := .none, waitArea := false, deferred := false,
          abortRequested := false } }
      else s.slotAt j := by
  induction l generalizing s with
  | nil => simp [abortSlots]
  | cons n l ih =>
    rw [abortSlots, ih]
    by_cases h : j = n
    · subst h
      split
      · next he => simp [abortInPhase_slotAt, SlotState.aborted_stands, he]
      · next he => simp [he]
    · split <;> simp [abortInPhase_slotAt, h]

theorem abortInPhase_moduleAt (n : Fin 8) (s : State) (k : Fin 30) : (abortInPhase n s).moduleAt k = s.moduleAt k :=
  State.moduleAt_congr (abortInPhase_frame n s).2.2.2.2.1 k

@[simp] theorem clearDeferrals_slotAt (s : State) (n : Fin 8) :
    (clearDeferrals s).slotAt n = { s.slotAt n with run := { (s.slotAt n).run with deferred := false } } := by
  simp [State.slotAt, clearDeferrals]

theorem failHolder_slotAt (h : Holder) (s : State) (j : Fin 8) :
    (failHolder h s).slotAt j = if h = .slot j then (s.slotAt j).atEnd .failed .moduleLost else s.slotAt j := by
  cases h with
  | none => simp [failHolder]
  | cancelPending t => simp [failHolder]
  | slot n =>
    rw [failHolder, enterEnded_slotAt]
    by_cases h : j = n
    · subst h; simp
    · have : ¬ n = j := fun e => h e.symm
      simp [h, this]

/-! ### The notices of endings -/

theorem NoticeUnit.offerAll_append (c : Half) (a b : List NoticeBody) (n : NoticeUnit) :
    n.offerAll c (a ++ b) = (n.offerAll c a).offerAll c b := by
  simp [NoticeUnit.offerAll]

theorem enterEnded_notices (n : Fin 8) (st : SlotState) (c : Condition) (s : State) :
    (enterEnded n st c s).notices =
      s.notices.offer s.sched.cycleCounter (.slotEnded n st c (s.slotAt n).run.abortRequested) := rfl

theorem failSlots_notices (c : Condition) (l : List (Fin 8)) (s : State) :
    (failSlots c l s).notices = s.notices.offerAll s.sched.cycleCounter
      (l.map (fun n => .slotEnded n .failed c (s.slotAt n).run.abortRequested)) := by
  induction l generalizing s with
  | nil => rfl
  | cons n l ih =>
    have h : ∀ j, ((enterEnded n .failed c s).slotAt j).run.abortRequested = (s.slotAt j).run.abortRequested := by
      intro j; rw [enterEnded_slotAt]; split <;> rfl
    rw [failSlots, ih, enterEnded_notices, (enterEnded_frame n .failed c s).2.2.2.1]
    simp only [h, List.map_cons, NoticeUnit.offerAll, List.foldl_cons]

/-- The notice of the ending of a slot that the link-down step ends. -/
def downNotice (c : Condition) (s : State) (n : Fin 8) : Option NoticeBody :=
  if (s.slotAt n).state.endedByLinkDown then some (.slotEnded n .failed c (s.slotAt n).run.abortRequested) else none

theorem failSlotsDown_notices (c : Condition) {l : List (Fin 8)} (h : l.Nodup) (s : State) :
    (failSlotsDown c l s).notices = s.notices.offerAll s.sched.cycleCounter (l.filterMap (downNotice c s)) := by
  induction l generalizing s with
  | nil => rfl
  | cons n l ih =>
    have hn := (List.nodup_cons.mp h).1
    rw [failSlotsDown, ih (List.nodup_cons.mp h).2]
    split
    · next he =>
      have hl : l.filterMap (downNotice c (enterEnded n .failed c s)) = l.filterMap (downNotice c s) :=
        List.filterMap_congr fun j hj => by
          have : j ≠ n := fun e => hn (e ▸ hj)
          simp only [downNotice, enterEnded_slotAt, this, if_false]
      rw [hl, List.filterMap_cons, downNotice, if_pos he]
      simp only [enterEnded_notices, (enterEnded_frame n .failed c s).2.2.2.1, NoticeUnit.offerAll, List.foldl_cons]
    · next he => rw [List.filterMap_cons, downNotice, if_neg he]

/-- The notice of the ending of a slot that the STOP_DONE entry aborts. -/
def abortNotice (s : State) (n : Fin 8) : Option NoticeBody :=
  if (s.slotAt n).state.inPhase then some (.slotEnded n .aborted .none false) else none

theorem abortSlots_notices {l : List (Fin 8)} (h : l.Nodup) (s : State) :
    (abortSlots l s).notices = s.notices.offerAll s.sched.cycleCounter (l.filterMap (abortNotice s)) := by
  induction l generalizing s with
  | nil => rfl
  | cons n l ih =>
    have hn := (List.nodup_cons.mp h).1
    rw [abortSlots, ih (List.nodup_cons.mp h).2]
    split
    · next he =>
      have hl : l.filterMap (abortNotice (abortInPhase n s)) = l.filterMap (abortNotice s) :=
        List.filterMap_congr fun j hj => by
          have : j ≠ n := fun e => hn (e ▸ hj)
          simp only [abortNotice, abortInPhase_slotAt, this, if_false]
      rw [hl, List.filterMap_cons, abortNotice, if_pos he, (abortInPhase_frame n s).2.2.2.1]
      simp only [abortInPhase_eq, NoticeUnit.offerAll, List.foldl_cons]
      rfl
    · next he => rw [List.filterMap_cons, abortNotice, if_neg he]

theorem failHolder_notices (h : Holder) (s : State) :
    (failHolder h s).notices = s.notices.offerAll s.sched.cycleCounter
      (match h with
        | .slot n => [.slotEnded n .failed .moduleLost (s.slotAt n).run.abortRequested]
        | .none => []
        | .cancelPending _ => []) := by
  cases h <;> rfl

/-- LOST: the notices, the module's first, then the holder slot's, then those of the waiting slots (R69). -/
theorem enterLost_notices (k : Fin 30) (c : ModuleCause) (s : State) :
    (enterLost k c s).notices = s.notices.offerAll s.sched.cycleCounter
      (.moduleState k (s.moduleAt k).state .lost c ::
        ((match (s.moduleAt k).holder with
          | .slot n => [.slotEnded n .failed .moduleLost (s.slotAt n).run.abortRequested]
          | .none => []
          | .cancelPending _ => []) ++
        (s.moduleAt k).waiting.map (fun j => .slotEnded j .failed .moduleLost (s.slotAt j).run.abortRequested))) := by
  have ha : ∀ (h : Holder) (t : State) j,
      ((failHolder h t).slotAt j).run.abortRequested = (t.slotAt j).run.abortRequested := by
    intro h t j; rw [failHolder_slotAt]; split <;> rfl
  unfold enterLost
  dsimp only
  rw [State.updModule_notices, failSlots_notices, State.updModule_notices, failHolder_notices, ← List.singleton_append,
    NoticeUnit.offerAll_append, NoticeUnit.offerAll_append]
  simp only [State.updModule_sched, (failHolder_frame _ _).2.2.2.1, State.slotAt_congr (State.updModule_exch k _ _), ha]
  rfl

/-- MISMATCH: the notices, the module's first, then those of the waiting slots (R74). -/
theorem enterMismatch_notices (k : Fin 30) (c : MismatchCause) (s : State) :
    (enterMismatch k c s).notices = s.notices.offerAll s.sched.cycleCounter
      (.moduleState k (s.moduleAt k).state .mismatch c.notice ::
        (s.moduleAt k).waiting.map
          (fun j => .slotEnded j .failed .moduleMismatch (s.slotAt j).run.abortRequested)) := by
  unfold enterMismatch
  dsimp only
  rw [State.updModule_notices, failSlots_notices]
  rfl

/-! ### Slot limits and subject stay under endings -/

/-- The settings of the exchange unit, and the slot subject. -/
def ExchangeUnit.settings (e : ExchangeUnit) : Fin 8 × Byte × Byte := (e.subject, e.retryLimit, e.holdLimit)

theorem ExchangeUnit.settings_eq {a b : ExchangeUnit} (h : a.settings = b.settings) :
    a.subject = b.subject ∧ a.retryLimit = b.retryLimit ∧ a.holdLimit = b.holdLimit := by
  simp only [ExchangeUnit.settings, Prod.mk.injEq] at h
  exact h

@[simp] theorem setSlot_settings (n : Fin 8) (x : Slot) (s : State) :
    (s.setSlot n x).exch.settings = s.exch.settings := rfl

@[simp] theorem updSlot_settings (n : Fin 8) (f : Slot → Slot) (s : State) :
    (s.updSlot n f).exch.settings = s.exch.settings := rfl

@[simp] theorem enterEnded_settings (n : Fin 8) (st : SlotState) (c : Condition) (s : State) :
    (enterEnded n st c s).exch.settings = s.exch.settings := rfl

@[simp] theorem failSlots_settings (c : Condition) (l : List (Fin 8)) (s : State) :
    (failSlots c l s).exch.settings = s.exch.settings := by
  induction l generalizing s with
  | nil => rfl
  | cons n l ih => rw [failSlots, ih, enterEnded_settings]

@[simp] theorem failSlotsDown_settings (c : Condition) (l : List (Fin 8)) (s : State) :
    (failSlotsDown c l s).exch.settings = s.exch.settings := by
  induction l generalizing s with
  | nil => rfl
  | cons n l ih => rw [failSlotsDown, ih]; split <;> simp

@[simp] theorem abortSlots_settings (l : List (Fin 8)) (s : State) :
    (abortSlots l s).exch.settings = s.exch.settings := by
  induction l generalizing s with
  | nil => rfl
  | cons n l ih => rw [abortSlots, ih]; split <;> rfl

/-! ### Modules -/

@[simp] theorem updateAges_moduleAt (s : State) (k : Fin 30) : (updateAges s).moduleAt k = (s.moduleAt k).aged := by
  simp [State.moduleAt, updateAges]

@[simp] theorem mapModulesDown_moduleAt (s : State) (k : Fin 30) :
    (mapModulesDown s).moduleAt k = (s.moduleAt k).linkDown := by
  simp [State.moduleAt, mapModulesDown]

@[simp] theorem cycleEnd_moduleAt (x : CycleStatus) (c : Nat) (s : State) (k : Fin 30) :
    (cycleEnd x c s).moduleAt k = (s.moduleAt k).aged := by
  rw [← updateAges_moduleAt]
  exact State.moduleAt_congr (by simp [cycleEnd]) k

@[simp] theorem stoppedCycleEnd_table (s : State) : (stoppedCycleEnd s).table.subject = s.table.subject := by
  unfold stoppedCycleEnd
  split <;> simp [cycleEnd]

/-- The link-down step at a module. -/
@[simp] theorem linkDownStep_moduleAt (c : Condition) (s : State) (k : Fin 30) :
    (linkDownStep c s).moduleAt k = (s.moduleAt k).linkDown := by
  rw [← mapModulesDown_moduleAt]
  exact State.moduleAt_congr (by simp [linkDownStep]) k

/-- The link-down step at a slot. -/
theorem linkDownStep_slotAt (c : Condition) (s : State) (j : Fin 8) :
    (linkDownStep c s).slotAt j =
      if (s.slotAt j).state.endedByLinkDown = true then (s.slotAt j).atEnd .failed c else s.slotAt j := by
  have h : (linkDownStep c s).slotAt j = (failSlotsDown c allSlots (mapModulesDown s)).slotAt j :=
    State.slotAt_congr (by simp only [linkDownStep]) j
  have e : (mapModulesDown s).slotAt j = s.slotAt j := State.slotAt_congr (mapModulesDown_exch s) j
  rw [h, failSlotsDown_slotAt, e]
  simp only [mem_allSlots, true_and]

/-- The link-down step keeps the exchange limits and the slot subject. -/
@[simp] theorem linkDownStep_settings (c : Condition) (s : State) :
    (linkDownStep c s).exch.settings = s.exch.settings := by
  unfold linkDownStep
  dsimp only
  rw [failSlotsDown_settings, mapModulesDown_exch]

theorem updModuleOf_moduleAt {s : State} {x : Slot} {k : Fin 30} (f : ModuleRecord → ModuleRecord)
    (h : x.host.moduleAddr.toNat = moduleAddress k) (j : Fin 30) :
    (s.updModuleOf x f).moduleAt j = if j = k then f (s.moduleAt j) else s.moduleAt j := by
  simp only [State.updModuleOf, Slot.module, h, moduleIndex_address, State.moduleAt_updModule]

theorem failSlots_moduleAt (c : Condition) (l : List (Fin 8)) (s : State) (k : Fin 30) :
    (failSlots c l s).moduleAt k = s.moduleAt k := State.moduleAt_congr (failSlots_frame c l s).2.2.2.2.1 k

theorem failHolder_moduleAt (h : Holder) (s : State) (k : Fin 30) :
    (failHolder h s).moduleAt k = s.moduleAt k := State.moduleAt_congr (failHolder_frame h s).2.2.2.2.1 k

theorem State.offer_moduleAt (b : NoticeBody) (s : State) (k : Fin 30) : (s.offer b).moduleAt k = s.moduleAt k :=
  State.moduleAt_congr (State.offer_table b s) k

/-- LOST: the module's record (R69). -/
theorem enterLost_moduleAt (k : Fin 30) (c : ModuleCause) (s : State) (j : Fin 30) :
    (enterLost k c s).moduleAt j =
      if j = k then { s.moduleAt j with
        state := .lost, failCount := s.link.threshold.toNat, holder := .none, cancelHold := 0, waiting := [] }
      else s.moduleAt j := by
  unfold enterLost
  dsimp only
  rw [State.moduleAt_updModule, failSlots_moduleAt, State.moduleAt_updModule, failHolder_moduleAt,
    State.offer_moduleAt, State.moduleAt_setModule]
  by_cases h : j = k
  · subst h; simp only [if_true]
  · simp only [h, if_false]

/-- LOST: every slot (R69). -/
theorem enterLost_slotAt (k : Fin 30) (c : ModuleCause) (s : State) (j : Fin 8) :
    (enterLost k c s).slotAt j =
      if (s.moduleAt k).holder = .slot j ∨ j ∈ (s.moduleAt k).waiting then (s.slotAt j).atEnd .failed .moduleLost
      else s.slotAt j := by
  have hm : ∀ (t : State) (f : ModuleRecord → ModuleRecord), (t.updModule k f).slotAt j = t.slotAt j :=
    fun t f => State.slotAt_congr (State.updModule_exch k f t) j
  have ho : ∀ (t : State) (b : NoticeBody), (t.offer b).slotAt j = t.slotAt j :=
    fun t b => State.slotAt_congr (State.offer_exch b t) j
  have hs : ∀ (t : State) (m : ModuleRecord), (t.setModule k m).slotAt j = t.slotAt j :=
    fun t m => State.slotAt_congr (State.setModule_exch k m t) j
  unfold enterLost
  dsimp only
  rw [hm, failSlots_slotAt, hm, failHolder_slotAt, ho, hs]
  by_cases h1 : j ∈ (s.moduleAt k).waiting <;> by_cases h2 : (s.moduleAt k).holder = .slot j <;>
    simp [h1, h2, Slot.atEnd]

/-- MISMATCH: every module record (R74). -/
theorem enterMismatch_moduleAt (k : Fin 30) (c : MismatchCause) (s : State) (j : Fin 30) :
    (enterMismatch k c s).moduleAt j =
      if j = k then { s.moduleAt j with
        state := .mismatch, mismatch := c, failCount := 0, age := 255, refreshed := false, waiting := [] }
      else s.moduleAt j := by
  unfold enterMismatch
  dsimp only
  rw [State.moduleAt_updModule, failSlots_moduleAt, State.offer_moduleAt, State.moduleAt_setModule]
  by_cases h : j = k
  · subst h; simp only [if_true]
  · simp only [h, if_false]

/-- MISMATCH: every slot (R74). -/
theorem enterMismatch_slotAt (k : Fin 30) (c : MismatchCause) (s : State) (j : Fin 8) :
    (enterMismatch k c s).slotAt j =
      if j ∈ (s.moduleAt k).waiting then (s.slotAt j).atEnd .failed .moduleMismatch else s.slotAt j := by
  have hs : ∀ m : ModuleRecord, (s.setModule k m).slotAt j = s.slotAt j :=
    fun m => State.slotAt_congr (State.setModule_exch k m s) j
  unfold enterMismatch
  dsimp only
  rw [State.slotAt_congr (State.updModule_exch k _ _), failSlots_slotAt, State.slotAt_congr (State.offer_exch _ _), hs]

end Sys2Proof.Machine
end

