-- ==== Sys2Proof/Laws/Cycle.lean ====
section
/-! SUPPORT. The cycle end, the cycle start, the walk, the picks and the probe stage: what each does to the images, the scheduler and the records, one lemma each. -/

namespace Sys2Proof.Machine

/-! ### Cycle end -/

/-- The cycle-end copy touches the held input image, its ages and its cycle number, and the snapshot flag alone. -/
@[simp] theorem cycleEndCopy_kept (s : State) :
    (cycleEndCopy s).image.live = s.image.live ∧ (cycleEndCopy s).image.staging = s.image.staging ∧
    (cycleEndCopy s).image.active = s.image.active ∧ (cycleEndCopy s).image.outputsValid = s.image.outputsValid ∧
    (cycleEndCopy s).image.commitPending = s.image.commitPending ∧
    (cycleEndCopy s).image.supervision = s.image.supervision ∧
    (cycleEndCopy s).image.deadline = s.image.deadline := by
  unfold cycleEndCopy
  split <;> simp

theorem cycleEndCopy_held (s : State) :
    (cycleEndCopy s).image.held = if s.image.copyDue then s.image.live else s.image.held := by
  unfold cycleEndCopy
  split <;> rfl

/-- A cycle end leaves the live, staging and active images. -/
@[simp] theorem cycleEnd_kept (x : CycleStatus) (c : Nat) (s : State) :
    (cycleEnd x c s).image.live = s.image.live ∧ (cycleEnd x c s).image.staging = s.image.staging ∧
    (cycleEnd x c s).image.active = s.image.active ∧ (cycleEnd x c s).image.outputsValid = s.image.outputsValid ∧
    (cycleEnd x c s).image.commitPending = s.image.commitPending ∧
    (cycleEnd x c s).image.supervision = s.image.supervision ∧
    (cycleEnd x c s).image.deadline = s.image.deadline := by
  simp [cycleEnd]

theorem cycleEnd_held (x : CycleStatus) (c : Nat) (s : State) :
    (cycleEnd x c s).image.held = if s.image.copyDue then s.image.live else s.image.held := by
  have h : (cycleEnd x c s).image = (cycleEndCopy (updateAges s)).image := by simp [cycleEnd]
  rw [h, cycleEndCopy_held, updateAges_image]

/-- A cycle end at the scheduler: the cycle record alone. -/
@[simp] theorem cycleEnd_sched (x : CycleStatus) (c : Nat) (s : State) :
    (cycleEnd x c s).sched = { s.sched with record := cycleRecordAt x c s.sched } := by
  simp [cycleEnd]

/-- A cycle end at the notice unit. -/
@[simp] theorem cycleEnd_notices (x : CycleStatus) (c : Nat) (s : State) :
    (cycleEnd x c s).notices =
      (if x = .overrun then (s.notices.offer s.sched.cycleCounter (.cycleOverrun c)).raise .overrun
        else s.notices).raise .cycleEnd := by
  unfold cycleEnd overrunReport
  dsimp only
  split <;> simp

theorem cycleEnd_slotAt (x : CycleStatus) (c : Nat) (s : State) (n : Fin 8) :
    (cycleEnd x c s).slotAt n = s.slotAt n := State.slotAt_congr (by simp) n

@[simp] theorem cycleEnd_subject (x : CycleStatus) (c : Nat) (s : State) :
    (cycleEnd x c s).table.subject = s.table.subject := by
  simp [cycleEnd]

/-- A cycle end at the module table: the ages alone. -/
theorem cycleEnd_table (x : CycleStatus) (c : Nat) (s : State) :
    (cycleEnd x c s).table = { s.table with records := mapVec ModuleRecord.aged s.table.records } := by
  simp [cycleEnd]

/-- A cycle end at the image unit looks at the image unit, the module table and the cycle number alone. -/
theorem cycleEnd_image_congr (x : CycleStatus) (c : Nat) {s t : State} (hi : t.image = s.image)
    (ht : t.table = s.table) (hn : t.sched.cycleCounter = s.sched.cycleCounter) :
    (cycleEnd x c t).image = (cycleEnd x c s).image := by
  have h : ∀ u : State, (cycleEnd x c u).image = (cycleEndCopy (updateAges u)).image := fun u => by simp [cycleEnd]
  rw [h, h]
  unfold cycleEndCopy
  simp only [updateAges_image, updateAges_table, updateAges_sched, hi, ht, hn]
  split <;> simp only [if_true, *, updateAges_image]
  simp

/-- The cycle end of the STOP_DONE entry, in stage MARK or SCAN alone (R61). -/
theorem stoppedCycleEnd_eq (s : State) : stoppedCycleEnd s =
    if s.sched.stage = .mark ∨ s.sched.stage = .scan then cycleEnd .stopped s.entriesLeft s else s := by
  unfold stoppedCycleEnd
  split <;> simp [*]

/-! ### Cycle start -/

/-- A cycle start at the scheduler: stage MARK over the begun cycle (R42). -/
@[simp] theorem cycleStart_sched (late : Bool) (s : State) :
    (cycleStart late s).sched = { s.sched.beginCycle late with stage := .mark, forSlot := none } := by
  simp [cycleStart, markRequest]

/-- A cycle start at the line: the MARK in phase GAP (R42, R43). -/
@[simp] theorem cycleStart_line (late : Bool) (s : State) :
    (cycleStart late s).line = { s.line with
      txn := some (markTxn (s.sched.cycleCounter + 1#16) (cycleStart late s).image.outputsValid)
      lde := true
      ltx := .idle } := by
  simp [cycleStart, Scheduler.beginCycle, markTxn, markRequest, Request.txn, allowedReplies, Config.broadcast]
  rfl

theorem cycleStart_slotAt (late : Bool) (s : State) (n : Fin 8) :
    (cycleStart late s).slotAt n = { s.slotAt n with run := { (s.slotAt n).run with deferred := false } } := by
  have e : (cycleStart late s).slotAt n = (clearDeferrals { s with sched := s.sched.beginCycle late }).slotAt n :=
    State.slotAt_congr (by simp [cycleStart]) n
  rw [e, clearDeferrals_slotAt]
  rfl

theorem cycleStart_moduleAt (late : Bool) (s : State) (k : Fin 30) : (cycleStart late s).moduleAt k = s.moduleAt k :=
  State.moduleAt_congr (by simp) k

/-- Supervision leaves the images. -/
@[simp] theorem advanceSupervision_kept (s : State) :
    (advanceSupervision s).image.live = s.image.live ∧ (advanceSupervision s).image.held = s.image.held ∧
    (advanceSupervision s).image.staging = s.image.staging ∧ (advanceSupervision s).image.active = s.image.active := by
  unfold advanceSupervision
  dsimp only
  (repeat' split) <;> simp

theorem imageCycleStart_images (s : State) :
    (imageCycleStart s).image.live = s.image.live ∧ (imageCycleStart s).image.held = s.image.held ∧
    (imageCycleStart s).image.staging = s.image.staging ∧
    (imageCycleStart s).image.active = if s.image.commitPending then s.image.staging else s.image.active := by
  cases h : s.image.commitPending <;> simp [imageCycleStart, h, ImageUnit.applyCommit]

/-- A cycle start leaves the live, held and staging images; the active image is as before or the staging image. -/
theorem cycleStart_images (late : Bool) (s : State) :
    (cycleStart late s).image.live = s.image.live ∧ (cycleStart late s).image.held = s.image.held ∧
    (cycleStart late s).image.staging = s.image.staging ∧
    (cycleStart late s).image.active = if s.image.commitPending then s.image.staging else s.image.active := by
  have h : (cycleStart late s).image =
      (imageCycleStart (clearDeferrals { s with sched := s.sched.beginCycle late })).image := by simp [cycleStart]
  rw [h]
  exact imageCycleStart_images _

/-! ### Searches -/

theorem judgeSlot_slotAt (n : Fin 8) (s : State) (j : Fin 8) :
    (judgeSlot n s).slotAt j =
      if j = n ∧ (s.slotAt n).gateJudged = true then
        { s.slotAt j with run := { (s.slotAt j).run with waitArea := !gateMet (s.slotAt n) s } }
      else s.slotAt j := by
  unfold judgeSlot
  split
  · next h => simp [markWaitArea, State.slotAt_updSlot, h]
  · next h => simp [h]

/-- The search changes no slot but by its WAIT_AREA mark. -/
theorem searchSlots_slotAt (l : List (Fin 8)) (s : State) (j : Fin 8) :
    ∃ b, (searchSlots l s).1.slotAt j = { s.slotAt j with run := { (s.slotAt j).run with waitArea := b } } := by
  induction l generalizing s with
  | nil => exact ⟨(s.slotAt j).run.waitArea, rfl⟩
  | cons n l ih =>
    have h : ∃ b, (judgeSlot n s).slotAt j = { s.slotAt j with run := { (s.slotAt j).run with waitArea := b } } := by
      rw [judgeSlot_slotAt]
      split
      · exact ⟨_, rfl⟩
      · exact ⟨(s.slotAt j).run.waitArea, rfl⟩
    unfold searchSlots
    split
    · exact h
    · obtain ⟨b, hb⟩ := ih (judgeSlot n s)
      obtain ⟨b', hb'⟩ := h
      exact ⟨b, by rw [hb, hb']⟩

/-- Eligibility does not look at WAIT_AREA. -/
theorem slotEligible_judge (n m : Fin 8) (s : State) : slotEligible n (judgeSlot m s) = slotEligible n s := by
  have ht : (judgeSlot m s).table = s.table := by simp
  have ha : (judgeSlot m s).areas = s.areas := by simp
  obtain ⟨b, hb⟩ : ∃ b, (judgeSlot m s).slotAt n =
      { s.slotAt n with run := { (s.slotAt n).run with waitArea := b } } := by
    rw [judgeSlot_slotAt]
    split
    · exact ⟨_, rfl⟩
    · exact ⟨(s.slotAt n).run.waitArea, rfl⟩
  simp only [slotEligible, hb, queuedEligible, gateMet, effectivePiece, State.moduleAt, State.areaAt, ht, ha,
    Slot.module]
  rfl

/-- The slot the search finds is eligible in the state the search leaves. -/
theorem searchSlots_found {l : List (Fin 8)} {s t : State} {n : Fin 8} (h : searchSlots l s = (t, some n)) :
    slotEligible n t = true := by
  induction l generalizing s with
  | nil => simp [searchSlots] at h
  | cons m l ih =>
    unfold searchSlots at h
    split at h
    · next he =>
      simp only [Prod.mk.injEq, Option.some.injEq] at h
      obtain ⟨rfl, rfl⟩ := h
      rw [slotEligible_judge, he]
    · exact ih h

/-- The gates judged of a list of slots, one after the other. -/
def judgeSlots (l : List (Fin 8)) (s : State) : State := l.foldl (fun t n => judgeSlot n t) s

@[simp] theorem judgeSlots_frame (l : List (Fin 8)) (s : State) :
    (judgeSlots l s).window = s.window ∧ (judgeSlots l s).line = s.line ∧ (judgeSlots l s).link = s.link ∧
    (judgeSlots l s).sched = s.sched ∧ (judgeSlots l s).table = s.table ∧ (judgeSlots l s).image = s.image ∧
    (judgeSlots l s).areas = s.areas ∧ (judgeSlots l s).notices = s.notices ∧
    (judgeSlots l s).pending = s.pending := by
  induction l generalizing s with
  | nil => simp [judgeSlots]
  | cons n l ih =>
    have h := ih (judgeSlot n s)
    simp only [judgeSlot_frame] at h
    exact h

/-- The search stops at the first eligible slot, with every gate up to it judged (R53). -/
theorem searchSlots_first {a b : List (Fin 8)} {n : Fin 8} {s : State} (hn : slotEligible n s = true)
    (ha : ∀ m ∈ a, slotEligible m s = false) :
    searchSlots (a ++ n :: b) s = (judgeSlots (a ++ [n]) s, some n) := by
  induction a generalizing s with
  | nil => simp [searchSlots, hn, judgeSlots]
  | cons m a ih =>
    have hm := ha m (by simp)
    simp only [List.cons_append, searchSlots, hm, Bool.false_eq_true, if_false]
    rw [ih (by rw [slotEligible_judge, hn]) (fun j hj => by rw [slotEligible_judge, ha j (by simp [hj])])]
    rfl

/-- With no eligible slot the search judges every gate and finds none (R53). -/
theorem searchSlots_none {l : List (Fin 8)} {s : State} (h : ∀ m ∈ l, slotEligible m s = false) :
    searchSlots l s = (judgeSlots l s, none) := by
  induction l generalizing s with
  | nil => rfl
  | cons m l ih =>
    simp only [searchSlots, h m (by simp), Bool.false_eq_true, if_false]
    rw [ih (fun j hj => by rw [slotEligible_judge, h j (by simp [hj])])]
    rfl

/-- A slot after gates were judged: WAIT_AREA by its own gate, if it was one of them (R145). -/
theorem judgeSlots_slotAt (l : List (Fin 8)) (s : State) (j : Fin 8) :
    (judgeSlots l s).slotAt j =
      if j ∈ l ∧ (s.slotAt j).gateJudged = true then
        { s.slotAt j with run := { (s.slotAt j).run with waitArea := !gateMet (s.slotAt j) s } }
      else s.slotAt j := by
  induction l generalizing s with
  | nil => simp [judgeSlots]
  | cons n l ih =>
    have hg : ∀ x : Slot, ∀ b, gateMet { x with run := { x.run with waitArea := b } } (judgeSlot n s) = gateMet x s := by
      intro x b
      have ht : (judgeSlot n s).table = s.table := by simp
      have ha : (judgeSlot n s).areas = s.areas := by simp
      simp only [gateMet, effectivePiece, State.moduleAt, State.areaAt, ht, ha, Slot.module]
      rfl
    show (judgeSlots l (judgeSlot n s)).slotAt j = _
    rw [ih, judgeSlot_slotAt]
    by_cases h : j = n
    · subst h
      by_cases hj : (s.slotAt j).gateJudged = true
      · have hj' : ∀ b, Slot.gateJudged { s.slotAt j with run := { (s.slotAt j).run with waitArea := b } } = true :=
          fun b => hj
        simp [hj, hj', hg]
      · simp [hj]
    · have := hg (s.slotAt j) (s.slotAt j).run.waitArea
      simp only [h, false_and, if_false, List.mem_cons, false_or]
      rw [this]

/-! ### Order of the searches -/

/-- Every slot is in the round-robin order. -/
theorem mem_slotOrder (p n : Fin 8) : n ∈ slotOrder p := by revert p n; decide

/-- The probe order: the addresses counted on from the pointer's next. -/
theorem probeOrder_eq (p : Fin 30) : probeOrder p = allModules.map (fun i => p + 1 + i) := by
  revert p; decide

/-- A module in address order, with those that come before it. -/
theorem allModules_split (k : Fin 30) : ∃ a b, allModules = a ++ k :: b ∧ ∀ j ∈ a, j < k := by
  have h : ∀ k : Fin 30, allModules = allModules.take k.val ++ k :: allModules.drop (k.val + 1) ∧
      ∀ j ∈ allModules.take k.val, j < k := by decide
  exact ⟨_, _, (h k).1, (h k).2⟩

/-- An address in the probe order, with those that come before it: they are nearer after the pointer. -/
theorem probeOrder_split (p k : Fin 30) : ∃ a b, probeOrder p = a ++ k :: b ∧
    ∀ j ∈ a, (j - p - 1).val < (k - p - 1).val := by
  have h1 : ∀ p k : Fin 30, p + 1 + (k - p - 1) = k := by decide +kernel
  have h2 : ∀ p i : Fin 30, p + 1 + i - p - 1 = i := by decide +kernel
  obtain ⟨a, b, e, ha⟩ := allModules_split (k - p - 1)
  refine ⟨a.map (fun i => p + 1 + i), b.map (fun i => p + 1 + i), ?_, ?_⟩
  · rw [probeOrder_eq, e, List.map_append, List.map_cons, h1]
  · intro j hj
    obtain ⟨i, hi, rfl⟩ := List.mem_map.mp hj
    rw [h2]
    exact ha i hi

/-- A slot in the round-robin order, with those that come before it: the nearer ones after the pointer. -/
theorem slotOrder_split (p n : Fin 8) : ∃ a b, slotOrder p = a ++ n :: b ∧
    ∀ j, j ∈ a ↔ (j - p - 1).val < (n - p - 1).val := by
  have h : ∀ p n : Fin 8,
      slotOrder p = (slotOrder p).take (n - p - 1).val ++ n :: (slotOrder p).drop ((n - p - 1).val + 1) ∧
      ∀ j, j ∈ (slotOrder p).take (n - p - 1).val ↔ (j - p - 1).val < (n - p - 1).val := by decide +kernel
  exact ⟨_, _, (h p n).1, (h p n).2⟩

/-! ### The pick of a slot -/

theorem pickFromQueued_slotAt (n : Fin 8) (s : State) (j : Fin 8) :
    (pickFromQueued n s).slotAt j =
      if j = n then { s.slotAt j with
        state := .opening, run := { (s.slotAt j).run with recordedPhase := .opening } }
      else s.slotAt j := by
  have h : (s.updModuleOf (s.slotAt n) (ModuleRecord.claim n)).exch = s.exch := by simp
  simp only [pickFromQueued, State.slotAt_updSlot, State.slotAt_congr h]

theorem pickFromQueued_moduleAt {n : Fin 8} {s : State} {k : Fin 30}
    (h : (s.slotAt n).host.moduleAddr.toNat = moduleAddress k) (j : Fin 30) :
    (pickFromQueued n s).moduleAt j = if j = k then (s.moduleAt j).claim n else s.moduleAt j := by
  have e : (pickFromQueued n s).moduleAt j = (s.updModuleOf (s.slotAt n) (ModuleRecord.claim n)).moduleAt j :=
    State.moduleAt_congr (by simp [pickFromQueued]) j
  rw [e, updModuleOf_moduleAt _ h]

@[simp] theorem startSlot_table (n : Fin 8) (s : State) : (startSlot n s).table = (leaveQueue n s).table := by
  simp [startSlot]

theorem startSlot_slotAt (n : Fin 8) (s : State) (j : Fin 8) :
    (startSlot n s).slotAt j =
      if j = n then { (leaveQueue n s).slotAt j with
        inFlight := some (slotRequestOf ((leaveQueue n s).slotAt n) (leaveQueue n s)) }
      else (leaveQueue n s).slotAt j := by
  have h : (startSlot n s).exch = ((leaveQueue n s).updSlot n (fun y =>
      { y with inFlight := some (slotRequestOf ((leaveQueue n s).slotAt n) (leaveQueue n s)) })).exch := by
    simp only [startSlot, startTxn_exch]
    rfl
  rw [State.slotAt_congr h, State.slotAt_updSlot]

/-- What a pick and a probe may change of a module: its waiting list and its holder, and those only in service. -/
def pickedFrom (m m' : ModuleRecord) : Prop :=
  m' = { m with waiting := m'.waiting, holder := m'.holder } ∧
  (m.state.inService = false → m' = m)

theorem pickedFrom.refl (m : ModuleRecord) : pickedFrom m m := ⟨rfl, fun _ => rfl⟩

/-- The start of an eligible slot at a module. -/
theorem startSlot_moduleAt {n : Fin 8} {s : State} (h : slotEligible n s = true) (k : Fin 30) :
    pickedFrom (s.moduleAt k) ((startSlot n s).moduleAt k) := by
  have e : (startSlot n s).moduleAt k = (leaveQueue n s).moduleAt k := State.moduleAt_congr (by simp) k
  rw [e, leaveQueue]
  split
  · next hq =>
    simp only [slotEligible, hq, queuedEligible] at h
    cases hm : (s.slotAt n).module with
    | none => rw [hm] at h; cases h
    | some j =>
      rw [hm] at h
      simp only [Bool.and_eq_true] at h
      rw [pickFromQueued_moduleAt (moduleIndex_eq_some.mp hm)]
      split
      · next hk => subst hk; exact ⟨rfl, fun hs => by rw [h.1.2] at hs; cases hs⟩
      · exact pickedFrom.refl _
  · exact pickedFrom.refl _

/-- A module whose cancel is not pending, or is deferred in this cycle, is no cancel candidate (R52). -/
theorem cancelTag_eq_none {s : State} {k : Fin 30}
    (h : ∀ tag, (s.moduleAt k).holder = .cancelPending tag → (s.moduleAt k).state.inService = true →
      k ∈ s.sched.cancelDeferred) : cancelTag s k = none := by
  unfold cancelTag
  cases hk : (s.moduleAt k).holder with
  | none => rfl
  | slot n => rfl
  | cancelPending tag =>
    by_cases hs : (s.moduleAt k).state.inService = true
    · simp [h tag hk hs]
    · simp [hs]

/-- Where every pending cancel is deferred the pick finds no cancel candidate (R51, R52). -/
theorem cancelCandidate_eq_none {s : State}
    (h : ∀ k tag, (s.moduleAt k).holder = .cancelPending tag → (s.moduleAt k).state.inService = true →
      k ∈ s.sched.cancelDeferred) : cancelCandidate s = none :=
  List.findSome?_eq_none_iff.mpr fun k _ => by rw [cancelTag_eq_none (h k)]; rfl

theorem acyclicPick_moduleAt (s : State) (k : Fin 30) : pickedFrom (s.moduleAt k) ((acyclicPick s).moduleAt k) := by
  have hp : ∀ t : State, (probeStage t).moduleAt k = t.moduleAt k := fun t => State.moduleAt_congr (by simp) k
  have hs : (searchSlots (slotOrder s.sched.rrPtr) s).1.moduleAt k = s.moduleAt k :=
    State.moduleAt_congr (by simp) k
  unfold acyclicPick
  split
  · split
    · rw [State.moduleAt_congr (startTxn_table _ _)]; exact pickedFrom.refl _
    · rw [hp]; exact pickedFrom.refl _
  · split
    · next t n h =>
      rw [h] at hs
      rw [← hs]
      split
      · exact startSlot_moduleAt (searchSlots_found h) k
      · rw [hp]; exact pickedFrom.refl _
    · next t h =>
      rw [h] at hs
      rw [hp, ← hs]; exact pickedFrom.refl _

/-- The scheduler's next decision at a module: the ages of at most one cycle end, then at most one pick. -/
theorem nextDecision_moduleAt (s : State) (k : Fin 30) :
    pickedFrom (s.moduleAt k) ((nextDecision s).moduleAt k) ∨
    pickedFrom (s.moduleAt k).aged ((nextDecision s).moduleAt k) := by
  have hw : ∀ t : State, pickedFrom (t.moduleAt k) ((walk t).moduleAt k) ∨
      pickedFrom (t.moduleAt k).aged ((walk t).moduleAt k) := by
    intro t
    unfold walk
    split
    · left; rw [State.moduleAt_congr (startTxn_table _ _)]; exact pickedFrom.refl _
    · right
      unfold enterAcyclic
      have h := acyclicPick_moduleAt (({ cycleEnd .complete 0
        { t with sched := { t.sched with scanPos := t.sched.scanLength.toNat } } with
        sched := { (cycleEnd .complete 0
          { t with sched := { t.sched with scanPos := t.sched.scanLength.toNat } }).sched with
          stage := .acyclic } } : State)) k
      have e : (({ cycleEnd .complete 0
          { t with sched := { t.sched with scanPos := t.sched.scanLength.toNat } } with
          sched := { (cycleEnd .complete 0
            { t with sched := { t.sched with scanPos := t.sched.scanLength.toNat } }).sched with
            stage := .acyclic } } : State)).moduleAt k = (t.moduleAt k).aged := cycleEnd_moduleAt _ _ _ k
      rw [e] at h
      exact h
  have hc : ∀ (b : Bool) (t : State), (overrunCut b t).moduleAt k = (t.moduleAt k).aged := by
    intro b t
    rw [overrunCut, cycleStart_moduleAt, cycleEnd_moduleAt]
  unfold nextDecision
  dsimp only
  split
  · split
    · rw [hc]; exact Or.inr (pickedFrom.refl _)
    · exact hw _
  · split
    · rw [hc]; exact Or.inr (pickedFrom.refl _)
    · exact hw s
  · split
    · rw [cycleStart_moduleAt]; exact Or.inl (pickedFrom.refl _)
    · exact Or.inl (acyclicPick_moduleAt s k)
  · split
    · rw [cycleStart_moduleAt]; exact Or.inl (pickedFrom.refl _)
    · exact Or.inl (pickedFrom.refl _)
  · split
    · rw [cycleStart_moduleAt]; exact Or.inl (pickedFrom.refl _)
    · exact Or.inl (pickedFrom.refl _)
  · exact Or.inl (pickedFrom.refl _)

/-! ### What a decision leaves of a slot -/

/-- What a pick, a search and a cycle start leave of a slot that is not QUEUED. -/
def decidedFrom (x y : Slot) : Prop :=
  y.host = x.host ∧ y.run.condition = x.run.condition ∧ (x.state ≠ .queued → y.state = x.state)

theorem decidedFrom.refl (x : Slot) : decidedFrom x x := ⟨rfl, rfl, fun _ => rfl⟩

theorem decidedFrom.trans {x y z : Slot} (h1 : decidedFrom x y) (h2 : decidedFrom y z) : decidedFrom x z :=
  ⟨h2.1.trans h1.1, h2.2.1.trans h1.2.1, fun h => by
    have e := h1.2.2 h
    rw [h2.2.2 (by rw [e]; exact h), e]⟩

theorem startSlot_decided (n : Fin 8) (s : State) (j : Fin 8) :
    decidedFrom (s.slotAt j) ((startSlot n s).slotAt j) := by
  have h : decidedFrom (s.slotAt j) ((leaveQueue n s).slotAt j) := by
    unfold leaveQueue
    split
    · next hq =>
      rw [pickFromQueued_slotAt]
      split
      · next hj => subst hj; exact ⟨rfl, rfl, fun hn => absurd hq hn⟩
      · exact decidedFrom.refl _
    · exact decidedFrom.refl _
  rw [startSlot_slotAt]
  split
  · exact ⟨h.1, h.2.1, h.2.2⟩
  · exact h

theorem acyclicPick_decided (s : State) (j : Fin 8) : decidedFrom (s.slotAt j) ((acyclicPick s).slotAt j) := by
  have hp : ∀ t : State, (probeStage t).slotAt j = t.slotAt j := fun t => State.slotAt_congr (by simp) j
  have hs : decidedFrom (s.slotAt j) ((searchSlots (slotOrder s.sched.rrPtr) s).1.slotAt j) := by
    obtain ⟨b, hb⟩ := searchSlots_slotAt (slotOrder s.sched.rrPtr) s j
    rw [hb]
    exact ⟨rfl, rfl, fun _ => rfl⟩
  unfold acyclicPick
  split
  · split
    · rw [State.slotAt_congr (startTxn_exch _ _)]; exact decidedFrom.refl _
    · rw [hp]; exact decidedFrom.refl _
  · split
    · next t n h =>
      rw [h] at hs
      split
      · exact hs.trans (startSlot_decided n t j)
      · rw [hp]; exact hs
    · next t h =>
      rw [h] at hs
      rw [hp]; exact hs

theorem nextDecision_decided (s : State) (j : Fin 8) : decidedFrom (s.slotAt j) ((nextDecision s).slotAt j) := by
  have hst : ∀ (b : Bool) (t : State), decidedFrom (t.slotAt j) ((cycleStart b t).slotAt j) := by
    intro b t
    rw [cycleStart_slotAt]
    exact ⟨rfl, rfl, fun _ => rfl⟩
  have hc : ∀ (b : Bool) (t : State), decidedFrom (t.slotAt j) ((overrunCut b t).slotAt j) := by
    intro b t
    have h := hst b (cycleEnd .overrun t.entriesLeft t)
    rw [cycleEnd_slotAt] at h
    exact h
  have hw : ∀ t : State, decidedFrom (t.slotAt j) ((walk t).slotAt j) := by
    intro t
    unfold walk
    split
    · rw [State.slotAt_congr (startTxn_exch _ _)]; exact decidedFrom.refl _
    · unfold enterAcyclic
      refine decidedFrom.trans ?_ (acyclicPick_decided _ j)
      have e := cycleEnd_slotAt .complete 0 { t with sched := { t.sched with scanPos := t.sched.scanLength.toNat } } j
      exact e ▸ decidedFrom.refl _
  unfold nextDecision
  dsimp only
  split
  · split
    · exact hc true { s with sched := { s.sched with stage := .scan } }
    · exact hw { s with sched := { s.sched with stage := .scan } }
  · split
    · exact hc true s
    · exact hw s
  · split
    · exact hst true s
    · exact acyclicPick_decided s j
  · split
    · exact hst true s
    · exact decidedFrom.refl _
  · split
    · exact hst true s
    · exact decidedFrom.refl _
  · exact decidedFrom.refl _

/-! ### What a decision leaves of the images -/

theorem walk_live (s : State) : (walk s).image.live = s.image.live ∧ (walk s).image.staging = s.image.staging ∧
    (walk s).image.active = s.image.active := by
  unfold walk
  split <;> simp

theorem overrunCut_live (late : Bool) (s : State) :
    (overrunCut late s).image.live = s.image.live ∧ (overrunCut late s).image.staging = s.image.staging := by
  unfold overrunCut
  have h := cycleStart_images late (cycleEnd .overrun s.entriesLeft s)
  simp only [cycleEnd_kept] at h
  exact ⟨h.1, h.2.2.1⟩

theorem nextDecision_live (s : State) :
    (nextDecision s).image.live = s.image.live ∧ (nextDecision s).image.staging = s.image.staging := by
  unfold nextDecision
  dsimp only
  split
  · split
    · exact overrunCut_live true { s with sched := { s.sched with stage := .scan } }
    · have h := walk_live { s with sched := { s.sched with stage := .scan } }
      exact ⟨h.1, h.2.1⟩
  · split
    · exact overrunCut_live true s
    · exact ⟨(walk_live s).1, (walk_live s).2.1⟩
  · split
    · exact ⟨(cycleStart_images true s).1, (cycleStart_images true s).2.2.1⟩
    · simp
  · split
    · exact ⟨(cycleStart_images true s).1, (cycleStart_images true s).2.2.1⟩
    · exact ⟨rfl, rfl⟩
  · split
    · exact ⟨(cycleStart_images true s).1, (cycleStart_images true s).2.2.1⟩
    · exact ⟨rfl, rfl⟩
  · exact ⟨rfl, rfl⟩

/-- What an end of transaction in RUNNING leaves: the next decision taken, or, with time left, the decision due and stage
SCAN after a MARK. -/
theorem decideInOrder_cases (order : EndOrder) (s : State) :
    decideInOrder order s = nextDecision s ∨
    (s.sched.timer ≠ .expired ∧
      ((s.sched.stage = .mark ∧ decideInOrder order s = enterScan s) ∨
       (s.sched.stage ≠ .mark ∧ decideInOrder order s = s))) := by
  unfold decideInOrder
  split
  · exact Or.inl rfl
  · split
    · exact Or.inl rfl
    · next he =>
      refine Or.inr ⟨he, ?_⟩
      split
      · next hm => exact Or.inl ⟨hm, rfl⟩
      · next hm => exact Or.inr ⟨hm, rfl⟩

/-- The decision at an end of transaction, taken or left due, at a module. -/
theorem decideInOrder_moduleAt (order : EndOrder) (s : State) (k : Fin 30) :
    pickedFrom (s.moduleAt k) ((decideInOrder order s).moduleAt k) ∨
    pickedFrom (s.moduleAt k).aged ((decideInOrder order s).moduleAt k) := by
  rcases decideInOrder_cases order s with e | ⟨_, ⟨_, e⟩ | ⟨_, e⟩⟩ <;> rw [e]
  exacts [nextDecision_moduleAt s k, Or.inl (pickedFrom.refl _), Or.inl (pickedFrom.refl _)]

/-- The decision at an end of transaction, taken or left due, at a slot. -/
theorem decideInOrder_decided (order : EndOrder) (s : State) (j : Fin 8) :
    decidedFrom (s.slotAt j) ((decideInOrder order s).slotAt j) := by
  rcases decideInOrder_cases order s with e | ⟨_, ⟨_, e⟩ | ⟨_, e⟩⟩ <;> rw [e]
  exacts [nextDecision_decided s j, decidedFrom.refl _, decidedFrom.refl _]

/-- The decision at an end of transaction, taken or left due, at the live and staging images. -/
theorem decideInOrder_live (order : EndOrder) (s : State) :
    (decideInOrder order s).image.live = s.image.live ∧ (decideInOrder order s).image.staging = s.image.staging := by
  rcases decideInOrder_cases order s with e | ⟨_, ⟨_, e⟩ | ⟨_, e⟩⟩ <;> rw [e]
  exacts [nextDecision_live s, ⟨rfl, rfl⟩, ⟨rfl, rfl⟩]

end Sys2Proof.Machine
end

