-- ==== Sys2Proof/Laws/Steps.lean ====
section
/-! SUPPORT. What a step can do, said once: the effects of all commands as a list of closure conditions, and the theorem that a predicate closed under them is kept by every command and every step. -/

namespace Sys2Proof.Machine

/-- A predicate that every effect of every command keeps. Each field is one effect, under the condition in which the
command reaches it. -/
structure KeptByEffects (P : State → Prop) : Prop where
  powerOn : ∀ s, P s → P { State.reset with pending := s.pending }
  platform : ∀ s, P s → P (platformValues s)
  window : ∀ s w, P s → P { s with window := w }
  pending : ∀ s q, P s → P { s with pending := q }
  windowEvent : ∀ s, P s → P (s.raise .windowError)
  plain : ∀ v r s, P s → P (writePlain v r s)
  start : ∀ s, P s → s.link.state = .off → P (startLink s)
  run : ∀ s, P s → s.link.state = .idle → P (cycleStart false (changeLink .running .command s))
  stop : ∀ s, P s → s.link.state = .running → P (stopLink s)
  shutdown : ∀ s, P s → s.link.state ≠ .off → P (enterOff (cutTxn s))
  linkConfig : ∀ v r s, P s → s.link.state = .off → P (putLinkConfig v r s)
  cycleLength : ∀ v r s, P s → s.link.state.cycling = false → P (putCycleLength v r s)
  scanList : ∀ v r s, P s → s.link.state.cycling = false → P (putScanList v r s)
  searchVacant : ∀ b s, P s → s.link.state.cycling = false →
    P { s with sched := { s.sched with searchVacant := b } }
  moduleField : ∀ v r s, P s → s.selModule.state.inService = false →
    P (s.updModule s.table.subject (ModuleRecord.putField v r))
  expect : ∀ s, P s → s.selModule.state.expectable = true → s.selModule.mapOk = true →
    P (s.updModule s.table.subject ModuleRecord.enterExpected)
  adopt : ∀ s, P s → s.selModule.state.adoptable = true → s.selModule.formatOk = true → s.selModule.lengthOk = true →
    P (s.updModule s.table.subject (fun r => { r.enterPresent with expectedType := r.repType }))
  forget : ∀ s, P s → s.selModule.state ≠ .disabled → s.selModule.unused = true →
    P (s.updModule s.table.subject (ModuleRecord.setAside .vacant))
  disable : ∀ s, P s → s.selModule.state ≠ .disabled → s.selModule.unused = true →
    P (s.updModule s.table.subject (fun m => { m.setAside .disabled with wasConfigured := m.state.configured }))
  enable : ∀ s, P s → s.selModule.state = .disabled →
    P (s.updModule s.table.subject (fun m =>
      { m with state := if m.wasConfigured then .expected else .vacant, age := 255, refreshed := false }))
  staging : ∀ v r s, P s → P (putStaging v r s)
  imageFlags : ∀ s (i : ImageUnit), P s → i.live = s.image.live → i.held = s.image.held →
    i.staging = s.image.staging → i.active = s.image.active → i.outputsValid = s.image.outputsValid →
    i.supervision = s.image.supervision → P { s with image := i }
  slotField : ∀ v r s, P s → s.selSlot.state = .free →
    P (s.updSlot s.exch.subject (fun x => { x with host := x.host.putField v r }))
  limit : ∀ v r s, P s → s.link.state.cycling = false → P (putLimit v r s)
  post : ∀ s, P s → s.selSlot.state = .free → s.selSlot.host.usable = true → s.moduleTakesSlot s.selSlot = true →
    (s.selSlot.host.direction.isSome = true → (s.areaAt s.selSlot.host.area).binding = none) →
    P (postSlot s.exch.subject s)
  retire : ∀ s, P s → s.selSlot.state.ended = true → P (retireSlot s.exch.subject s)
  restart : ∀ s, P s → s.selSlot.restartable = true → s.moduleTakesSlot s.selSlot = true →
    P (enqueueSlot s.exch.subject (clearRun s.exch.subject s))
  abortQueued : ∀ s, P s → s.selSlot.state = .queued → P (abortQueued s.exch.subject s)
  abortInFlight : ∀ s, P s → s.selSlot.state.inPhase = true → s.selSlot.inFlight.isSome = true →
    P (abortInFlight s.exch.subject s)
  abortInPhase : ∀ s, P s → s.selSlot.state.inPhase = true → s.selSlot.inFlight = none →
    P (abortInPhase s.exch.subject s)
  resumeQueued : ∀ s, P s → s.selSlot.state = .aborted → s.selSlot.run.recordedPhase = .none →
    s.moduleTakesSlot s.selSlot = true →
    P (enqueueSlot s.exch.subject (s.updSlot s.exch.subject Slot.resumed))
  resumePhase : ∀ s, P s → s.selSlot.state = .aborted → s.selSlot.run.recordedPhase ≠ .none →
    P (s.updSlot s.exch.subject (fun y => { y.resumed with state := y.run.recordedPhase.state }))
  staged : ∀ v r s, P s → P (putStaged v r s)
  configure : ∀ s, P s → s.anyAreaBound = false → s.areas.stagedUnits ≤ Config.areaUnitsTotal →
    P { s with areas := { s.areas with records := s.areas.layout } }
  flush : ∀ s, P s → flushable s.selArea s = true → P (s.setArea s.areas.subject s.selArea.emptied)
  portWrite : ∀ v s, P s → s.selArea.inside = true → s.selArea.serves .read = false →
    s.selArea.fill < s.selArea.size →
    P (appendToArea s.areas.subject [v] s)
  portRead : ∀ s, P s → s.selArea.inside = true → s.selArea.serves .write = false → s.selArea.fill ≠ 0 →
    P (s.setArea s.areas.subject (s.selArea.consume 1))
  pop : ∀ s, P s → s.notices.queue ≠ [] → P { s with notices := s.notices.pop }
  clearLost : ∀ s, P s → P { s with notices := { s.notices with lostCount := 0, overflow := false } }
  clearing : ∀ v s, P s → P { s with notices := s.notices.clearNamed v }
  intEnable : ∀ v s, P s → P { s with notices := s.notices.setIntEnable v }
  attnEnable : ∀ v s, P s → P { s with notices := s.notices.setAttnEnable v }
  pulseStart : ∀ s, P s → 0 < s.notices.attnOwed →
    P { s with notices := { s.notices with attnLine := true, attnOwed := s.notices.attnOwed - 1 } }
  pulseEnd : ∀ s, P s → P { s with notices := { s.notices with attnLine := false } }
  checkPassed : ∀ s, P s → s.link.state = .checking →
    P (changeLink .idle .checkPassed { s with link := { s.link with highSamples := Config.lineCheckSamples } })
  checkFailed : ∀ highs s, P s → s.link.state = .checking →
    P (enterFault .lineHeld { s with link := { s.link with highSamples := highs } })
  expiry : ∀ r s, P s → s.sched.timer = .running r →
    P (afterExpiry { s with sched := { s.sched with timer := .expired } })
  gap : ∀ t s, P s → s.line.txn = some t → t.phase = .gap →
    P (setTxn { t with phase := .sending } true (.frame (lineLevels t.sent)) (s.elapse Config.gapBits))
  settle : ∀ t cs cause d s, P s → s.line.txn = some t → t.phase = .sending ∨ t.phase = .receiving →
    P (setTxn { t with phase := .settling, received := cs, settling := some cause } false .idle (s.elapse d))
  await : ∀ t d s, P s → s.line.txn = some t → t.phase = .sending → t.kind ≠ .mark →
    P (setTxn { t with phase := .awaiting } false .idle
      { s.elapse d with line := { (s.elapse d).line with echoFaults := 0 } })
  receive : ∀ t d s, P s → s.line.txn = some t → t.phase = .awaiting →
    P (setTxn { t with phase := .receiving, received := [] } false .idle (s.elapse d))
  markEnd : ∀ t d order s, P s → s.regionsInside = true → s.areasInside = true → s.line.txn = some t →
    t.phase = .sending → t.kind = .mark →
    P (endTxn t (.reply none) order { s.elapse d with line := { (s.elapse d).line with echoFaults := 0 } })
  txnEnd : ∀ t o d order s, P s → s.regionsInside = true → s.areasInside = true → s.line.txn = some t →
    t.phase ≠ .gap → o ≠ .reply none → o ≠ .abandoned → P (endTxn t o order (s.elapse d))
  due : ∀ s, P s → s.regionsInside = true → s.areasInside = true → s.decisionDue = true → P (nextDecision s)

theorem txnIn_eq {s : State} {p : TxnPhase} {t : Txn} (h : s.txnIn p = some t) : s.line.txn = some t ∧ t.phase = p := by
  simp only [State.txnIn] at h
  have := Option.filter_eq_some_iff.mp h
  simpa using this

theorem classifyReply_ne (t : Txn) (f : List Byte) :
    classifyReply t f ≠ .reply none ∧ classifyReply t f ≠ .abandoned := by
  unfold classifyReply
  split
  · dsimp only
    split
    · unfold classifyChecked
      split
      · simp
      · split
        · simp
        · split
          · simp
          · split <;> simp
    · simp
  · simp

namespace KeptByEffects

variable {P : State → Prop}

theorem windowError (h : KeptByEffects P) (c : WindowCause) {s : State} (hs : P s) : P (s.windowError c) :=
  h.windowEvent _ (h.window s _ hs)

theorem advanceIndex (h : KeptByEffects P) {s : State} (hs : P s) : P s.advanceIndex := h.window s _ hs

theorem emptyLatch (h : KeptByEffects P) {s : State} (hs : P s) : P s.emptyLatch := h.window s _ hs

theorem finishAccess (h : KeptByEffects P) {s : State} (hs : P s) : P s.finishAccess :=
  h.emptyLatch (h.advanceIndex hs)

theorem returns (h : KeptByEffects P) (v : Byte) {s : State} (hs : P s) : P (s.returns v) := h.window s _ hs

theorem onWrite (h : KeptByEffects P) {c : WriteClass} {f : Reg → State → State} {s : State} (hs : P s)
    (hf : ∀ r, P (f r s)) : P (onWrite c f s) :=
  onWrite_cases hs (fun r _ _ => h.finishAccess (hf r))

theorem onCommand (h : KeptByEffects P) {u : UnitId} {code : Byte} {take : State → Taken} {s : State} (hs : P s)
    (hf : P (take s).state) : P (onCommand u code take s) :=
  onCommand_cases hs (fun _ => h.finishAccess (h.window _ _ hf))

theorem whenNoCycles (h : KeptByEffects P) {f : State → State} {s : State} (hs : P s)
    (hf : s.link.state.cycling = false → P (f s)) : P (whenNoCycles f s) :=
  whenNoCycles_cases (h.windowError _ hs) hf

end KeptByEffects

/-- What every effect keeps, every command keeps. -/
theorem exec_keeps {P : State → Prop} (h : KeptByEffects P) {c : Instr} {s t : State} (hs : P s)
    (he : exec c s = .next t) : P t := by
  cases c <;> simp only [exec] at he
  case powerOnReset => cases he; exact h.powerOn s hs
  case platformReset => cases he; exact h.platform s hs
  case platformResetRelease => cases he; exact h.window s _ hs
  case unitWrite => cases he; split; exacts [hs, h.emptyLatch (h.window s _ hs)]
  case indexWrite => cases he; split; exacts [hs, h.window s _ hs]
  case noUnitAccess a =>
    cases he
    split
    · cases a; exacts [h.returns _ hs, hs]
    · split
      · cases a
        exacts [h.finishAccess (h.returns _ (h.windowError _ hs)), h.finishAccess (h.windowError _ hs)]
      · exact hs
  case noIndexAccess a =>
    cases he
    split
    · cases a; exacts [h.returns _ hs, hs]
    · split
      · cases a
        exacts [h.finishAccess (h.returns _ (h.windowError _ hs)), h.finishAccess (h.windowError _ hs)]
      · exact hs
  case registerWrite =>
    cases he
    split
    exacts [h.onWrite hs (fun _ => h.windowError _ hs), h.onWrite hs (fun r => h.plain _ r s hs)]
  case lowByteRead =>
    cases he
    split
    · exact h.returns _ hs
    · split
      exacts [h.advanceIndex (h.window _ _ (h.returns _ hs)), hs, hs, hs]
  case unknownCommand =>
    cases he
    split
    · split
      exacts [hs, h.onCommand hs hs]
    all_goals exact hs
  case clearError => cases he; exact h.onCommand hs (h.window s _ hs)
  case start => cases he; exact h.onCommand hs (by unfold takeStart; split; exacts [h.start s hs ‹_›, hs])
  case run => cases he; exact h.onCommand hs (by unfold takeRun; split; exacts [h.run s hs ‹_›, hs])
  case stop => cases he; exact h.onCommand hs (by unfold takeStop; split; exacts [h.stop s hs ‹_›, hs])
  case shutdown => cases he; exact h.onCommand hs (by unfold takeShutdown; split; exacts [hs, h.shutdown s hs ‹_›])
  case linkConfigWrite =>
    cases he
    exact h.onWrite hs (fun r => by split; exacts [h.linkConfig _ r s hs ‹_›, h.windowError _ hs])
  case cycleLengthWrite =>
    cases he
    exact h.onWrite hs (fun r => h.whenNoCycles hs (h.cycleLength _ r s hs))
  case scanListWrite => cases he; exact h.onWrite hs (fun r => h.whenNoCycles hs (h.scanList _ r s hs))
  case searchVacantWrite => cases he; exact h.onWrite hs (fun r => h.whenNoCycles hs (h.searchVacant _ s hs))
  case moduleFieldWrite =>
    cases he
    exact h.onWrite hs (fun r => by
      split
      · exact h.windowError _ hs
      · next hm => exact h.moduleField _ r s hs (by simpa using hm))
  case expect =>
    cases he
    refine h.onCommand hs ?_
    unfold takeExpect
    split
    · exact hs
    · split
      · exact hs
      · next h1 h2 => exact h.expect s hs (by simpa using h1) (by simpa using h2)
  case adopt =>
    cases he
    refine h.onCommand hs ?_
    unfold takeAdopt
    dsimp only
    split
    · exact hs
    · split
      · exact hs
      · next h1 h2 =>
        simp only [Bool.not_eq_true', Bool.not_eq_false, Bool.and_eq_true] at h1 h2
        exact h.adopt s hs h1 h2.1 h2.2
  case forget =>
    cases he
    refine h.onCommand hs ?_
    unfold takeForget
    split
    · exact hs
    · split
      · exact hs
      · next h1 h2 => exact h.forget s hs h1 (by simpa using h2)
  case disable =>
    cases he
    refine h.onCommand hs ?_
    unfold takeDisable
    split
    · exact hs
    · split
      · exact hs
      · next h1 h2 => exact h.disable s hs h1 (by simpa using h2)
  case enable => cases he; exact h.onCommand hs (by unfold takeEnable; split; exacts [h.enable s hs ‹_›, hs])
  case stagingWrite => cases he; exact h.onWrite hs (fun r => h.staging _ r s hs)
  case followWrite => cases he; exact h.onWrite hs (fun _ => h.imageFlags s _ hs rfl rfl rfl rfl rfl rfl)
  case commitDeadlineWrite => cases he; exact h.onWrite hs (fun _ => h.imageFlags s _ hs rfl rfl rfl rfl rfl rfl)
  case commit => cases he; exact h.onCommand hs (h.imageFlags s _ hs rfl rfl rfl rfl rfl rfl)
  case snapshot =>
    cases he
    exact h.onCommand hs (by
      unfold takeSnapshot; split; exacts [hs, h.imageFlags s _ hs rfl rfl rfl rfl rfl rfl])
  case freeze =>
    cases he
    exact h.onCommand hs (by unfold takeFreeze; split; exacts [hs, h.imageFlags s _ hs rfl rfl rfl rfl rfl rfl])
  case release =>
    cases he
    exact h.onCommand hs (by unfold takeRelease; split; exacts [h.imageFlags s _ hs rfl rfl rfl rfl rfl rfl, hs])
  case slotFieldWrite =>
    cases he
    exact h.onWrite hs (fun r => by split; exacts [h.slotField _ r s hs ‹_›, h.windowError _ hs])
  case exchangeLimitWrite => cases he; exact h.onWrite hs (fun r => h.whenNoCycles hs (h.limit _ r s hs))
  case post =>
    cases he
    refine h.onCommand hs ?_
    unfold takePost
    dsimp only
    split
    · exact hs
    · next h1 =>
      split
      · exact hs
      · next h2 =>
        split
        · exact hs
        · next h3 =>
          split
          · exact hs
          · next h4 =>
            split
            · exact hs
            · refine h.post s hs (by simpa using h1) (by simpa using h2) (by simpa using h3) (fun hd => ?_)
              rw [hd, Bool.true_and] at h4
              simpa using h4
  case retire => cases he; exact h.onCommand hs (by unfold takeRetire; split; exacts [h.retire s hs ‹_›, hs])
  case restart =>
    cases he
    refine h.onCommand hs ?_
    unfold takeRestart
    split
    · exact hs
    · split
      · exact hs
      · next h1 h2 => exact h.restart s hs (by simpa using h1) (by simpa using h2)
  case abort =>
    cases he
    refine h.onCommand hs ?_
    unfold takeAbort
    dsimp only
    split
    · next h1 => exact h.abortQueued s hs h1
    · split
      · exact hs
      · next h2 =>
        split
        · next h3 => exact h.abortInFlight s hs (by simpa using h2) h3
        · next h3 => exact h.abortInPhase s hs (by simpa using h2) (by simpa using h3)
  case resume =>
    cases he
    refine h.onCommand hs ?_
    unfold takeResume
    dsimp only
    split
    · exact hs
    · next h1 =>
      split
      · next hp =>
        split
        · exact hs
        · next h2 => exact h.resumeQueued s hs (by simpa using h1) hp (by simpa using h2)
      · next hp => exact h.resumePhase s hs (by simpa using h1) hp
  case stagedSizeWrite => cases he; exact h.onWrite hs (fun r => h.staged _ r s hs)
  case configure =>
    cases he
    refine h.onCommand hs ?_
    unfold takeConfigure
    split
    · exact hs
    · next h1 =>
      split
      · exact hs
      · next h2 => exact h.configure s hs (by simpa using h1) (by omega)
  case flush => cases he; exact h.onCommand hs (by unfold takeFlush; split; exacts [h.flush s hs ‹_›, hs])
  case dataPortWrite v =>
    simp only [execDataPortWrite] at he
    split at he
    · split at he
      · next hin =>
        cases he
        refine h.onWrite hs (fun _ => ?_)
        unfold writeDataPort
        dsimp only
        split
        · exact h.windowError _ hs
        · next hd =>
          split
          · exact h.windowError _ hs
          · next hf => exact h.portWrite v s hs hin (by simpa using hd) (by omega)
      · cases he
    · cases he; exact hs
  case dataPortRead =>
    simp only [execDataPortRead] at he
    split at he
    · cases he; exact h.returns _ hs
    · split at he
      · split at he
        · next hin =>
          cases he
          refine h.finishAccess ?_
          unfold readDataPort
          dsimp only
          split
          · exact h.returns _ (h.windowError _ hs)
          · next hd =>
            split
            · exact h.returns _ (h.windowError _ hs)
            · next hf => exact h.returns _ (h.portRead s hs hin (by simpa using hd) hf)
        · cases he
      · cases he; exact hs
  case pop =>
    cases he
    refine h.onCommand hs ?_
    unfold takePop
    split
    · exact hs
    · next h1 => exact h.pop s hs (by simpa using h1)
  case clearLost => cases he; exact h.onCommand hs (h.clearLost s hs)
  case clearingRegisterWrite => cases he; exact h.onWrite hs (fun _ => h.clearing _ s hs)
  case intEnableWrite => cases he; exact h.onWrite hs (fun _ => h.intEnable _ s hs)
  case attnEnableWrite => cases he; exact h.onWrite hs (fun _ => h.attnEnable _ s hs)
  case lineCheckComplete => cases he; split; exacts [h.checkPassed s hs ‹_›, hs]
  case lineCheckFailed =>
    cases he
    split
    · next h1 => exact h.checkFailed _ s hs h1.1
    · exact hs
  case cycleTimerExpiry =>
    cases he
    split
    · next hr => exact h.expiry _ s hs hr
    all_goals exact hs
  case gapElapsed =>
    cases he
    split
    · next ht => exact h.gap _ s hs (txnIn_eq ht).1 (txnIn_eq ht).2
    · exact hs
  case requestEchoed =>
    simp only [execRequestEchoed] at he
    split at he
    · next ht =>
      split at he
      · obtain ⟨h1, h2, rfl⟩ := whenAddressed_next.mp he
        unfold echoed
        dsimp only
        split
        · next hk => exact h.markEnd _ _ _ s hs h1 h2 (txnIn_eq ht).1 (txnIn_eq ht).2 hk
        · next hk => exact h.await _ _ s hs (txnIn_eq ht).1 (txnIn_eq ht).2 hk
      · cases he; exact hs
    · cases he; exact hs
  case echoMismatch =>
    cases he
    split
    · next t ht =>
      split
      · exact h.settle t t.received .echoFault _ s hs (txnIn_eq ht).1 (Or.inl (txnIn_eq ht).2)
      · exact hs
    · exact hs
  case replyWindowExpiry =>
    simp only [execReplyWindowExpiry] at he
    split at he
    · next t ht =>
      obtain ⟨h1, h2, rfl⟩ := whenAddressed_next.mp he
      exact h.txnEnd t _ _ _ s hs h1 h2 (txnIn_eq ht).1 (by rw [(txnIn_eq ht).2]; simp) (by simp) (by simp)
    · cases he; exact hs
  case replyStart =>
    cases he
    split
    · next ht =>
      split
      · exact h.receive _ _ s hs (txnIn_eq ht).1 (txnIn_eq ht).2
      · exact hs
    · exact hs
  case receiveFault =>
    cases he
    split
    · next t ht =>
      split
      · exact h.settle t _ .corrupt _ s hs (txnIn_eq ht).1 (Or.inr (txnIn_eq ht).2)
      · exact hs
    · exact hs
  case quietLimitExpiry =>
    simp only [execQuietLimitExpiry] at he
    split at he
    · next t ht =>
      split at he
      · obtain ⟨h1, h2, rfl⟩ := whenAddressed_next.mp he
        exact h.txnEnd t _ _ _ s hs h1 h2 (txnIn_eq ht).1 (by rw [(txnIn_eq ht).2]; simp) (by simp) (by simp)
      · cases he; exact hs
    · cases he; exact hs
  case settlingEnd =>
    simp only [execSettlingEnd] at he
    split at he
    · next t ht =>
      split at he
      · obtain ⟨h1, h2, rfl⟩ := whenAddressed_next.mp he
        have ho : settlingOutcome t.settling ≠ .reply none ∧ settlingOutcome t.settling ≠ .abandoned := by
          cases hx : t.settling with
          | none => simp [settlingOutcome]
          | some c => cases c <;> simp [settlingOutcome]
        exact h.txnEnd t _ _ _ s hs h1 h2 (txnIn_eq ht).1 (by rw [(txnIn_eq ht).2]; simp) ho.1 ho.2
      · cases he; exact hs
    · cases he; exact hs
  case replyReceived =>
    simp only [execReplyReceived] at he
    split at he
    · next t ht =>
      split at he
      · obtain ⟨h1, h2, rfl⟩ := whenAddressed_next.mp he
        exact h.txnEnd t _ _ _ s hs h1 h2 (txnIn_eq ht).1 (by rw [(txnIn_eq ht).2]; simp)
          (classifyReply_ne t _).1 (classifyReply_ne t _).2
      · cases he; exact hs
    · cases he; exact hs
  case attnPulseStart =>
    cases he
    split
    · next hp =>
      simp only [Bool.and_eq_true, decide_eq_true_eq] at hp
      exact h.pulseStart s hs hp.2
    · exact hs
  case attnPulseEnd => cases he; exact h.pulseEnd s hs
  case registerRead =>
    cases he
    split
    · exact h.returns _ hs
    · split
      · exact hs
      · exact hs
      · unfold readHigh
        split
        exacts [h.finishAccess (h.returns _ hs), h.advanceIndex (h.returns _ hs)]
      · exact h.finishAccess (h.returns _ hs)
      · exact hs
      · exact hs

/-- What every effect keeps, every step keeps. -/
theorem step_keeps {P : State → Prop} (h : KeptByEffects P) {s t : State} (hs : P s) (he : step s = .next t) : P t := by
  unfold step at he
  split at he
  · unfold whenIdle at he
    split at he
    · next hd =>
      obtain ⟨h1, h2, rfl⟩ := whenAddressed_next.mp he
      exact h.due s hs h1 h2 hd
    · cases he; exact hs
  · exact exec_keeps h (h.pending s _ hs) he

end Sys2Proof.Machine
end

