-- ==== Sys2Proof/Laws/Line.lean ====
section
/-! SUPPORT. The line and the cycle after each shared operation: the pins, the transaction in flight, the stage, the timer and the link state. -/

namespace Sys2Proof.Machine

/-- No transaction in flight and the pair driven at the idle level. -/
def LineEngine.free (l : LineEngine) : Prop := l.txn = none ∧ l.lde = true ∧ l.ltx = .idle

theorem LineEngine.free.driven {l : LineEngine} (h : l.free) : l.driven :=
  ⟨fun _ => h.2, fun t ht => by rw [h.1] at ht; cases ht⟩

theorem startTxn_driven (q : Request) (s : State) : (startTxn q s).line.driven :=
  ⟨fun h => (by cases h), fun t ht => by cases ht; exact ⟨rfl, rfl⟩⟩

/-- The law of a running cycle at the scheduler: a timer, a stage, a transaction in flight in stage MARK and after the
timer expired, and none in stage REST. -/
def State.cycleRuns (s : State) : Prop :=
  s.sched.timer ≠ .stopped ∧ s.sched.stage ≠ .none ∧
  (s.line.txn = none → s.sched.stage ≠ .mark ∧ s.sched.timer ≠ .expired) ∧
  (s.sched.stage = .rest → s.line.txn = none)

theorem cycleStart_driven (late : Bool) (s : State) : (cycleStart late s).line.driven := startTxn_driven _ _

theorem cycleStart_runs (late : Bool) (s : State) : (cycleStart late s).cycleRuns := by
  refine ⟨?_, ?_, fun h => ?_, ?_⟩
  · rw [cycleStart_sched]; simp [Scheduler.beginCycle]
  · rw [cycleStart_sched]; simp
  · cases h
  · rw [cycleStart_sched]; simp

theorem probeStage_driven {s : State} (h : s.line.free) : (probeStage s).line.driven := by
  unfold probeStage
  split
  · split
    exacts [startTxn_driven _ _, LineEngine.free.driven h]
  · exact LineEngine.free.driven h

theorem enterRest_runs {s : State} (h : s.line.txn = none) (ht : s.sched.timer ≠ .stopped)
    (he : s.sched.timer ≠ .expired) : (enterRest s).cycleRuns :=
  ⟨ht, by simp [enterRest], fun _ => ⟨by simp [enterRest], he⟩, fun _ => h⟩

theorem startTxn_runs (q : Request) {s : State} (ht : s.sched.timer ≠ .stopped) (h1 : s.sched.stage ≠ .none)
    (h2 : s.sched.stage ≠ .rest) : (startTxn q s).cycleRuns :=
  ⟨ht, h1, fun h => by (cases h), fun h => absurd h h2⟩

theorem probeStage_runs {s : State} (h : s.line.txn = none) (ht : s.sched.timer ≠ .stopped)
    (he : s.sched.timer ≠ .expired) : (probeStage s).cycleRuns := by
  unfold probeStage
  split
  · split
    · exact startTxn_runs _ ht (by simp) (by simp)
    · exact enterRest_runs h ht he
  · exact enterRest_runs h ht he

theorem acyclicPick_driven {s : State} (h : s.line.free) : (acyclicPick s).line.driven := by
  have hx := searchSlots_frame (slotOrder s.sched.rrPtr) s
  unfold acyclicPick
  split
  · split
    exacts [startTxn_driven _ _, probeStage_driven h]
  · split
    · next t n e =>
      rw [e] at hx
      split
      · exact startTxn_driven _ _
      · exact probeStage_driven (by rw [hx.2.1]; exact h)
    · next t e => rw [e] at hx; exact probeStage_driven (by rw [hx.2.1]; exact h)

theorem acyclicPick_runs {s : State} (h : s.line.txn = none) (ht : s.sched.timer ≠ .stopped)
    (he : s.sched.timer ≠ .expired) (hs : s.sched.stage = .acyclic) : (acyclicPick s).cycleRuns := by
  have hx := searchSlots_frame (slotOrder s.sched.rrPtr) s
  unfold acyclicPick
  split
  · split
    · exact startTxn_runs _ ht (by simp [hs]) (by simp [hs])
    · exact probeStage_runs h ht he
  · split
    · next t n e =>
      rw [e] at hx
      have hc : t.sched = s.sched := hx.2.2.2.1
      split
      · have hq : (startSlot n t).sched.stage = .acyclic ∧ (startSlot n t).sched.timer = s.sched.timer := by
          simp [startSlot, startTxn, hc, hs]
        exact ⟨by rw [hq.2]; exact ht, by rw [hq.1]; simp, fun h => (by cases h), by rw [hq.1]; simp⟩
      · exact probeStage_runs (by rw [hx.2.1]; exact h) (by rw [hc]; exact ht) (by rw [hc]; exact he)
    · next t e =>
      rw [e] at hx
      exact probeStage_runs (by rw [hx.2.1]; exact h) (by rw [hx.2.2.2.1]; exact ht) (by rw [hx.2.2.2.1]; exact he)

theorem walk_driven {s : State} (h : s.line.free) : (walk s).line.driven := by
  unfold walk
  split
  · exact startTxn_driven _ _
  · apply acyclicPick_driven
    show (cycleEnd _ _ _).line.free
    rw [(cycleEnd_frame _ _ _).2.1]; exact h

theorem walk_runs {s : State} (h : s.line.txn = none) (ht : s.sched.timer ≠ .stopped)
    (he : s.sched.timer ≠ .expired) (hs : s.sched.stage = .scan) : (walk s).cycleRuns := by
  unfold walk
  split
  · exact startTxn_runs _ ht (by simp [hs]) (by simp [hs])
  · apply acyclicPick_runs
    · show (cycleEnd _ _ _).line.txn = none
      rw [(cycleEnd_frame _ _ _).2.1]; exact h
    · show (cycleEnd _ _ _).sched.timer ≠ _
      rw [cycleEnd_sched]; exact ht
    · show (cycleEnd _ _ _).sched.timer ≠ _
      rw [cycleEnd_sched]; exact he
    · rfl

/-- The line after the scheduler's next decision. -/
theorem nextDecision_driven {s : State} (h : s.line.free) : (nextDecision s).line.driven := by
  unfold nextDecision
  dsimp only
  split
  · split
    exacts [cycleStart_driven _ _, walk_driven h]
  · split
    exacts [cycleStart_driven _ _, walk_driven h]
  · split
    exacts [cycleStart_driven _ _, acyclicPick_driven h]
  · split
    exacts [cycleStart_driven _ _, LineEngine.free.driven h]
  · split
    exacts [cycleStart_driven _ _, LineEngine.free.driven h]
  · exact LineEngine.free.driven h

/-- The cycle after the scheduler's next decision. -/
theorem nextDecision_runs {s : State} (h : s.line.txn = none) (ht : s.sched.timer ≠ .stopped)
    (hs : s.sched.stage ≠ .none) : (nextDecision s).cycleRuns := by
  unfold nextDecision
  dsimp only
  split
  · split
    · exact cycleStart_runs _ _
    · next e => exact walk_runs h ht (show s.sched.timer ≠ .expired by simpa using e) rfl
  · next e =>
    split
    · exact cycleStart_runs _ _
    · next e' => exact walk_runs h ht (by simpa using e') e
  · next e =>
    split
    · exact cycleStart_runs _ _
    · next e' => exact acyclicPick_runs h ht (by simpa using e') e
  · split
    · exact cycleStart_runs _ _
    · next e' => exact enterRest_runs h ht (by simpa using e')
  · next e =>
    split
    · exact cycleStart_runs _ _
    · next e' => exact ⟨ht, by simp [e], fun _ => ⟨by simp [e], by simpa using e'⟩, fun _ => h⟩
  · next e => exact absurd e hs

/-- The line after the decision at an end of transaction, taken or left due. -/
theorem decideInOrder_driven (order : EndOrder) {s : State} (h : s.line.free) :
    (decideInOrder order s).line.driven := by
  rcases decideInOrder_cases order s with e | ⟨_, ⟨_, e⟩ | ⟨_, e⟩⟩ <;> rw [e]
  exacts [nextDecision_driven h, LineEngine.free.driven h, LineEngine.free.driven h]

/-- The cycle after the decision at an end of transaction, taken or left due. -/
theorem decideInOrder_runs (order : EndOrder) {s : State} (h : s.line.txn = none) (ht : s.sched.timer ≠ .stopped)
    (hs : s.sched.stage ≠ .none) : (decideInOrder order s).cycleRuns := by
  rcases decideInOrder_cases order s with e | ⟨he, ⟨_, e⟩ | ⟨hm, e⟩⟩ <;> rw [e]
  · exact nextDecision_runs h ht hs
  · exact ⟨ht, by simp [enterScan], fun _ => ⟨by simp [enterScan], he⟩, by simp [enterScan]⟩
  · exact ⟨ht, hs, fun _ => ⟨hm, he⟩, fun _ => h⟩

theorem linkDownStep_cycle (c : Condition) (s : State) :
    (linkDownStep c s).sched.stage = .none ∧ (linkDownStep c s).sched.timer = .stopped := by
  simp [linkDownStep, Scheduler.linkDown]

/-- The STOP_DONE entry. -/
theorem stopDone_facts {s : State} (h : s.line.txn = none) :
    (stopDone s).link.state = .idle ∧ (stopDone s).line.free ∧ (stopDone s).sched.stage = .none ∧
    (stopDone s).sched.timer = .stopped ∧ (stopDone s).link.threshold = s.link.threshold := by
  have hc := stoppedCycleEnd_frame (changeLink .idle .stopDone (drivePair s))
  unfold stopDone
  dsimp only
  rw [(abortSlots_frame _ _).2.1, (abortSlots_frame _ _).2.2.1, (abortSlots_frame _ _).2.2.2.1]
  refine ⟨?_, ?_, rfl, rfl, ?_⟩
  · show (stoppedCycleEnd _).link.state = _; rw [hc.2.2.1]; rfl
  · show (stoppedCycleEnd _).line.free; rw [hc.2.1]; exact ⟨h, rfl, rfl⟩
  · show (stoppedCycleEnd _).link.threshold = _; rw [hc.2.2.1]; rfl

/-- The entry into FAULT. -/
theorem enterFault_facts (c : LinkCause) {s : State} (h : s.line.txn = none) :
    (enterFault c s).link.state = .fault ∧ (enterFault c s).line.txn = none ∧ (enterFault c s).line.lde = false ∧
    (enterFault c s).line.ltx = .idle ∧ (enterFault c s).sched.stage = .none ∧
    (enterFault c s).sched.timer = .stopped := by
  have hf := linkDownStep_frame .linkFault (changeLink .fault c (releasePair s))
  unfold enterFault
  rw [hf.2.1, hf.2.2.1, (linkDownStep_cycle _ _).1, (linkDownStep_cycle _ _).2]
  exact ⟨rfl, h, rfl, rfl, rfl, rfl⟩

/-- The entry into OFF. -/
theorem enterOff_facts {s : State} (h : s.line.txn = none) :
    (enterOff s).link.state = .off ∧ (enterOff s).line.txn = none ∧ (enterOff s).line.lde = false ∧
    (enterOff s).line.ltx = .idle ∧ (enterOff s).sched.stage = .none ∧ (enterOff s).sched.timer = .stopped := by
  unfold enterOff
  dsimp only
  generalize e : ({ changeLink .off .command (releasePair s) with
    line := { (changeLink .off .command (releasePair s)).line with echoFaults := 0 } } : State) = u
  have hf := linkDownStep_frame .linkDown u
  rw [hf.2.1, hf.2.2.1, (linkDownStep_cycle _ _).1, (linkDownStep_cycle _ _).2]
  subst e
  exact ⟨rfl, h, rfl, rfl, rfl, rfl⟩

theorem cutTxn_line (s : State) : (cutTxn s).line.txn = none := by
  unfold cutTxn
  split
  · rw [(routeOutcome_frame _ _ _).2.1]
  · next e => exact e

/-- The routing of an outcome leaves stage and timer. -/
theorem routeOutcome_cycle (t : Txn) (o : TxnOutcome) (s : State) :
    (routeOutcome t o s).sched.stage = s.sched.stage ∧ (routeOutcome t o s).sched.timer = s.sched.timer := by
  have hd : ∀ k (u : State), (deferCancel k u).sched.stage = u.sched.stage ∧
      (deferCancel k u).sched.timer = u.sched.timer := by
    intro k u; unfold deferCancel; split <;> exact ⟨rfl, rfl⟩
  have hc : ∀ k, (takeCancel k o s).sched.stage = s.sched.stage ∧ (takeCancel k o s).sched.timer = s.sched.timer := by
    intro k
    have e : (if ((countOutcome k o s).moduleAt k).state.inService then settleCancel k o (countOutcome k o s)
        else countOutcome k o s).sched = s.sched := by
      split
      · rw [(settleCancel_frame _ _ _).2.2.2.1, (countOutcome_frame _ _ _).2.2.2.1]
      · rw [(countOutcome_frame _ _ _).2.2.2.1]
    unfold takeCancel
    dsimp only
    split
    · rw [(hd _ _).1, (hd _ _).2, e]; exact ⟨rfl, rfl⟩
    · rw [e]; exact ⟨rfl, rfl⟩
  unfold routeOutcome
  dsimp only
  split
  · unfold routeTo
    split
    · exact ⟨rfl, rfl⟩
    · exact ⟨by show (takeScan _ o s).sched.stage = _; rw [(takeScan_frame _ o s).2.2.2.1],
        by show (takeScan _ o s).sched.timer = _; rw [(takeScan_frame _ o s).2.2.2.1]⟩
    · rw [(takeProbe_frame _ _ _).2.2.2.1]; exact ⟨rfl, rfl⟩
    · exact hc _
    all_goals (rw [(routeSlot_frame _ _ _).2.2.2.1]; exact ⟨rfl, rfl⟩)
  · exact ⟨rfl, rfl⟩

/-- The state routing leaves at the end of a transaction: nothing in flight, the pair driven at the idle level. -/
theorem routed_free (t : Txn) (o : TxnOutcome) (s : State) : (routeOutcome t o (removeTxn o s)).line.free := by
  rw [(routeOutcome_frame _ _ _).2.1]; exact ⟨rfl, rfl, rfl⟩

end Sys2Proof.Machine
end

