-- ==== Sys2Proof/Laws/Memory.lean ====
section
/-! SUPPORT. Byte memories: what a write changes, and that every memory operation keeps the canonical form. -/

namespace Sys2Proof.Machine

@[simp] theorem Memory.wf_nil : Memory.wf [] := by simp [Memory.wf]

theorem Memory.wf_cons {c : Host.Cell} {m : Memory} (h : Memory.wf (c :: m)) :
    Memory.wf m ∧ c.2 ≠ 0#8 ∧ ∀ d ∈ m, c.1 < d.1 := by
  simp only [Memory.wf, List.pairwise_cons, List.mem_cons, forall_eq_or_imp] at h ⊢
  exact ⟨⟨h.1.2, h.2.2⟩, h.2.1, h.1.1⟩

theorem Memory.wf_cons_iff (c : Host.Cell) (m : Memory) :
    Memory.wf (c :: m) ↔ Memory.wf m ∧ c.2 ≠ 0#8 ∧ ∀ d ∈ m, c.1 < d.1 := by
  simp only [Memory.wf, List.pairwise_cons, List.mem_cons, forall_eq_or_imp]
  tauto

/-- A cell of a written memory is an old one or the new one. -/
theorem Memory.mem_write {m : Memory} {a : Nat} {v : Byte} {c : Host.Cell} (h : c ∈ m.write a v) :
    c ∈ m ∨ (c = (a, v) ∧ v ≠ 0#8) := by
  induction m with
  | nil =>
    simp only [Memory.write] at h
    split at h <;> simp_all
  | cons d m ih =>
    obtain ⟨k, x⟩ := d
    simp only [Memory.write] at h
    have keep : c ∈ m → c ∈ ((k, x) :: m) := List.mem_cons_of_mem _
    by_cases h1 : a < k
    · by_cases hv : v = 0#8
      · rw [if_pos h1, if_pos hv] at h
        exact Or.inl h
      · rw [if_pos h1, if_neg hv] at h
        rcases List.mem_cons.mp h with h | h
        · exact Or.inr ⟨h, hv⟩
        · exact Or.inl h
    · by_cases h2 : a = k
      · by_cases hv : v = 0#8
        · rw [if_neg h1, if_pos h2, if_pos hv] at h
          exact Or.inl (keep h)
        · rw [if_neg h1, if_pos h2, if_neg hv] at h
          rcases List.mem_cons.mp h with h | h
          · exact Or.inr ⟨h, hv⟩
          · exact Or.inl (keep h)
      · rw [if_neg h1, if_neg h2] at h
        rcases List.mem_cons.mp h with h | h
        · exact Or.inl (h ▸ List.mem_cons_self)
        · exact (ih h).imp keep id

/-- A write keeps the canonical form. -/
theorem Memory.write_wf {m : Memory} (h : m.wf) (a : Nat) (v : Byte) : (m.write a v).wf := by
  induction m with
  | nil =>
    simp only [Memory.write]
    split
    · exact Memory.wf_nil
    · simp_all [Memory.wf]
  | cons d m ih =>
    obtain ⟨k, x⟩ := d
    obtain ⟨hm, hx, hk⟩ := Memory.wf_cons h
    simp only [Memory.write]
    split
    · rename_i hak
      split
      · exact h
      · rename_i hv
        rw [Memory.wf_cons_iff]
        refine ⟨h, hv, fun d hd => ?_⟩
        rcases List.mem_cons.mp hd with rfl | hd
        · exact hak
        · exact Nat.lt_trans hak (hk d hd)
    · split
      · rename_i hak
        split
        · exact hm
        · rename_i hv
          rw [Memory.wf_cons_iff]
          exact ⟨hm, hv, fun d hd => by simpa [hak] using hk d hd⟩
      · rename_i h1 h2
        rw [Memory.wf_cons_iff]
        refine ⟨ih hm, hx, fun d hd => ?_⟩
        rcases Memory.mem_write hd with hd | ⟨rfl, _⟩
        · exact hk d hd
        · simp only; omega

/-- Writing several bytes keeps the canonical form. -/
theorem Memory.writeBytes_wf {m : Memory} (h : m.wf) (a : Nat) (bs : List Byte) : (m.writeBytes a bs).wf := by
  induction bs generalizing m a with
  | nil => exact h
  | cons b bs ih => exact ih (Memory.write_wf h a b) (a + 1)

/-- Placing bytes in a ring keeps the canonical form. -/
theorem AreaRecord.place_wf (r : AreaRecord) {m : Memory} (h : m.wf) (bs : List Byte) : (r.place m bs).wf := by
  induction bs generalizing m r with
  | nil => exact h
  | cons b bs ih => exact ih _ (Memory.write_wf h _ b)

/-- An address below every cell reads 00h. -/
theorem Memory.read_of_lt {m : Memory} {a : Nat} (h : ∀ d ∈ m, a < d.1) : m.read a = 0#8 := by
  induction m with
  | nil => rfl
  | cons d m ih =>
    obtain ⟨k, x⟩ := d
    have hk := h (k, x) List.mem_cons_self
    simp only [Memory.read]
    rw [if_neg (by simp only at hk; omega)]
    exact ih (fun d hd => h d (List.mem_cons_of_mem _ hd))

/-- The byte just written. -/
theorem Memory.read_write_same {m : Memory} (h : m.wf) (a : Nat) (v : Byte) : (m.write a v).read a = v := by
  induction m with
  | nil =>
    simp only [Memory.write]
    split <;> simp_all [Memory.read]
  | cons d m ih =>
    obtain ⟨k, x⟩ := d
    obtain ⟨hm, hx, hk⟩ := Memory.wf_cons h
    simp only [Memory.write]
    split
    · rename_i hak
      split
      · rename_i hv
        rw [hv]
        exact Memory.read_of_lt (fun d hd => by
          rcases List.mem_cons.mp hd with rfl | hd
          · exact hak
          · exact Nat.lt_trans hak (hk d hd))
      · simp [Memory.read]
    · split
      · rename_i hak
        split
        · rename_i hv
          rw [hv]
          exact Memory.read_of_lt (fun d hd => by rw [hak]; exact hk d hd)
        · simp [Memory.read]
      · rename_i h1 h2
        simp only [Memory.read]
        rw [if_neg (by omega)]
        exact ih hm

/-- Every other address reads as before. -/
theorem Memory.read_write_other {m : Memory} (h : m.wf) {a b : Nat} (v : Byte) (hab : b ≠ a) :
    (m.write a v).read b = m.read b := by
  induction m with
  | nil =>
    simp only [Memory.write]
    split
    · rfl
    · simp only [Memory.read]
      rw [if_neg (by omega)]
  | cons d m ih =>
    obtain ⟨k, x⟩ := d
    obtain ⟨hm, hx, hk⟩ := Memory.wf_cons h
    simp only [Memory.write]
    split
    · split
      · rfl
      · simp only [Memory.read]
        rw [if_neg (by omega)]
    · split
      · rename_i hak
        split
        · simp only [Memory.read]
          rw [if_neg (by omega)]
        · simp only [Memory.read]
          rw [if_neg (by omega), if_neg (by omega)]
      · simp only [Memory.read]
        rw [ih hm]

/-- Outside the bytes written, every address reads as before. -/
theorem Memory.read_writeBytes_outside {m : Memory} (h : m.wf) (a b : Nat) (bs : List Byte)
    (hb : b < a ∨ a + bs.length ≤ b) : (m.writeBytes a bs).read b = m.read b := by
  induction bs generalizing m a with
  | nil => rfl
  | cons x bs ih =>
    simp only [List.length_cons] at hb
    simp only [Memory.writeBytes]
    rw [ih (Memory.write_wf h a x) (a + 1) (by omega), Memory.read_write_other h x (by omega)]

/-- The bytes written, at their addresses. -/
theorem Memory.read_writeBytes_inside {m : Memory} (h : m.wf) (a : Nat) (bs : List Byte) (i : Nat)
    (hi : i < bs.length) : (m.writeBytes a bs).read (a + i) = bs[i] := by
  induction bs generalizing m a i with
  | nil => simp at hi
  | cons x bs ih =>
    simp only [Memory.writeBytes]
    cases i with
    | zero =>
      rw [Memory.read_writeBytes_outside (Memory.write_wf h a x) _ _ _ (by omega)]
      simpa using Memory.read_write_same h a x
    | succ i =>
      have := ih (Memory.write_wf h a x) (a + 1) i (by simpa using hi)
      rw [show a + (i + 1) = a + 1 + i by omega, this]
      simp

end Sys2Proof.Machine
end

