-- ==== Sys2Proof/Laws/Modules.lean ====
section
/-! SUPPORT. What the effects do to a module record, said once: a list of changes of one record, each under the condition in which it is made; so a property of a record that these changes keep is kept at every module by every effect. -/

namespace Sys2Proof.Machine

/-- A property of a module record that every change of a record keeps, for a failure threshold. -/
structure KeptByRecords (threshold : Nat) (Q : ModuleRecord → Prop) : Prop where
  counted : ∀ m, Q m → m.state.inService = true → Q { m with failCount := 0, state := .present }
  suspect : ∀ m, Q m → m.state.inService = true → m.failCount + 1 < threshold →
    Q { m with failCount := m.failCount + 1, state := .suspect }
  lost : ∀ m, Q m → m.state.inService = true →
    Q { m with state := .lost, failCount := threshold, holder := .none, cancelHold := 0, waiting := [] }
  scanned : ∀ b m, Q m → m.state.inService = true →
    Q { m with failCount := 0, state := .present, age := 0, refreshed := true, status := b }
  identified : ∀ i m, Q m → m.state = .expected ∨ m.state = .lost → (m.reported i).identify = .none →
    Q (m.reported i).enterPresent
  mismatched : ∀ i c m, Q m → m.state = .expected ∨ m.state = .lost → c ≠ .none →
    Q { m.reported i with
      state := .mismatch, mismatch := c, failCount := 0, age := 255, refreshed := false, waiting := [] }
  found : ∀ i m, Q m → m.state = .vacant →
    Q { m.reported i with state := .found, failCount := 0, age := 255, refreshed := false }
  freed : ∀ m, Q m → Q { m with holder := .none, cancelHold := 0 }
  cancelHeld : ∀ c m, Q m → m.holder.code = 2#8 → Q { m with cancelHold := c }
  aged : ∀ m, Q m → Q m.aged
  linkDown : ∀ m, Q m → Q m.linkDown
  append : ∀ n m, Q m → m.state.takesSlots = true → Q (m.append n)
  remove : ∀ n m, Q m → Q (m.remove n)
  claim : ∀ n m, Q m → m.state.inService = true → m.holder = .none → Q (m.claim n)
  release : ∀ n m, Q m → Q (m.release n)
  releaseForCancel : ∀ n tag m, Q m → Q (m.releaseForCancel n tag)

namespace KeptByRecords

variable {thr : Nat} {Q : ModuleRecord → Prop}

/-- The property at every module. -/
def atAll (Q : ModuleRecord → Prop) (s : State) : Prop := ∀ k, Q (s.moduleAt k)

theorem atAll_congr {s t : State} (e : t.table = s.table) (h : atAll Q s) : atAll Q t := fun k => by
  rw [State.moduleAt_congr e]; exact h k

theorem atAll_set {s : State} (k : Fin 30) {m : ModuleRecord} (hs : atAll Q s) (hm : Q m) :
    atAll Q (s.setModule k m) := fun j => by
  rw [State.moduleAt_setModule]; split; exacts [hm, hs j]

theorem atAll_upd {s : State} (k : Fin 30) {f : ModuleRecord → ModuleRecord} (hs : atAll Q s)
    (hf : Q (f (s.moduleAt k))) : atAll Q (s.updModule k f) := atAll_set k hs hf

theorem atAll_updOf {s : State} (x : Slot) {f : ModuleRecord → ModuleRecord} (hs : atAll Q s)
    (hf : ∀ m, Q m → Q (f m)) : atAll Q (s.updModuleOf x f) := by
  unfold State.updModuleOf
  split
  exacts [atAll_upd _ hs (hf _ (hs _)), hs]

theorem enterLost (h : KeptByRecords thr Q) (k : Fin 30) (c : ModuleCause) {s : State}
    (ht : s.link.threshold.toNat = thr) (hk : (s.moduleAt k).state.inService = true) (hs : atAll Q s) :
    atAll Q (enterLost k c s) := fun j => by
  rw [enterLost_moduleAt]
  split
  · next e => subst e; rw [ht]; exact h.lost _ (hs j) hk
  · exact hs j

theorem countOutcome (h : KeptByRecords thr Q) (k : Fin 30) (o : TxnOutcome) {s : State}
    (ht : s.link.threshold.toNat = thr) (hs : atAll Q s) : atAll Q (countOutcome k o s) := by
  unfold Machine.countOutcome
  split
  · next hk =>
    have hf : atAll Q (countFailure k s) := by
      unfold countFailure
      dsimp only
      split
      · next hl => exact atAll_set k hs (h.suspect _ (hs k) hk (by omega))
      · exact h.enterLost k _ ht hk hs
    split
    exacts [atAll_upd k hs (h.counted _ (hs k) hk), hf, hf, hf, hs, hs]
  · exact hs

theorem takeScan (h : KeptByRecords thr Q) (k : Fin 30) (o : TxnOutcome) {s : State}
    (ht : s.link.threshold.toNat = thr) (hs : atAll Q s) : atAll Q (takeScan k o s) := by
  unfold Machine.takeScan
  split
  · split
    · next hk =>
      intro j
      unfold takeScanReply watchStatus
      rw [State.moduleAt_updModule]
      have e : ∀ (p : Prop) [Decidable p] (b : NoticeBody) (t : State),
          (if p then State.offer b t else t).moduleAt j = t.moduleAt j := by
        intro p _ b t; split; exacts [State.offer_moduleAt b t j, rfl]
      rw [e, State.moduleAt_updModule]
      split
      · next hj => subst hj; exact h.scanned _ (s.moduleAt j) (hs j) hk
      · exact hs j
    · exact hs
  all_goals first | exact hs | exact h.countOutcome _ _ ht hs

theorem judgeIdent (h : KeptByRecords thr Q) (k : Fin 30) (i : Ident) {s : State}
    (hk : (s.moduleAt k).state = .expected ∨ (s.moduleAt k).state = .lost) (hs : atAll Q s) :
    atAll Q (judgeIdent k (s.updModule k (ModuleRecord.reported i))) := by
  have hm : ∀ c, c ≠ .none → atAll Q (enterMismatch k c (s.updModule k (ModuleRecord.reported i))) := by
    intro c hc j
    unfold enterMismatch
    dsimp only
    rw [State.moduleAt_updModule, failSlots_moduleAt, State.offer_moduleAt, State.moduleAt_setModule]
    split
    · next e => subst e; rw [State.moduleAt_updModule_same]; exact h.mismatched i c (s.moduleAt j) (hs j) hk hc
    · next e => rw [State.moduleAt_updModule]; simp only [e, if_false]; exact hs j
  unfold Machine.judgeIdent
  dsimp only
  split
  · next hi =>
    rw [State.moduleAt_updModule_same] at hi
    intro j
    rw [State.offer_moduleAt, State.moduleAt_setModule]
    split
    · next e => subst e; rw [State.moduleAt_updModule_same]; exact h.identified i (s.moduleAt j) (hs j) hk hi
    · next e => rw [State.moduleAt_updModule]; simp only [e, if_false]; exact hs j
  · exact hm _ (by decide)
  · exact hm _ (by decide)
  · exact hm _ (by decide)

theorem takeProbe (h : KeptByRecords thr Q) (k : Fin 30) (o : TxnOutcome) {s : State} (hs : atAll Q s) :
    atAll Q (takeProbe k o s) := by
  unfold Machine.takeProbe
  split
  · unfold takeIdent
    split
    · next e => exact h.judgeIdent k _ (Or.inl e) hs
    · next e => exact h.judgeIdent k _ (Or.inr e) hs
    · next e =>
      split
      · exact atAll_congr (State.offer_table _ _)
          (atAll_upd k hs
            (f := fun m => { m.reported _ with state := .found, failCount := 0, age := 255, refreshed := false })
            (h.found _ _ (hs k) e))
      · exact hs
    all_goals exact hs
  all_goals exact hs

theorem takeCancel (h : KeptByRecords thr Q) (k : Fin 30) (o : TxnOutcome) {s : State}
    (ht : s.link.threshold.toNat = thr) (hs : atAll Q s) : atAll Q (takeCancel k o s) := by
  have h1 : atAll Q (Machine.countOutcome k o s) := h.countOutcome k o ht hs
  have t1 : (Machine.countOutcome k o s).link.threshold.toNat = thr := by rw [(countOutcome_frame k o s).2.2.1]; exact ht
  have h2 : ∀ t : State, atAll Q t → t.link.threshold.toNat = thr → (t.moduleAt k).state.inService = true →
      atAll Q (settleCancel k o t) := by
    intro t hq hthr hk
    unfold settleCancel
    split
    · next tag hh =>
      have hcode : (t.moduleAt k).holder.code = 2#8 := by rw [hh]; rfl
      split
      · split
        · exact atAll_upd k hq (h.freed _ (hq k))
        · exact atAll_upd k hq (h.freed _ (hq k))
        · have hc := atAll_upd k (f := fun m => { m with cancelHold := min 255 ((t.moduleAt k).cancelHold + 1) }) hq
            (h.cancelHeld _ _ (hq k) hcode)
          unfold holdCancel
          dsimp only
          split
          · exact h.enterLost k _ hthr (by rw [State.moduleAt_updModule_same]; exact hk) hc
          · exact hc
        all_goals exact hq
      all_goals exact hq
    all_goals exact hq
  have h3 : ∀ t : State, atAll Q t → atAll Q (deferCancel k t) :=
    fun t hq => atAll_congr (deferCancel_frame k t).2.2.2.1 hq
  have h4 : atAll Q (if ((Machine.countOutcome k o s).moduleAt k).state.inService then
      settleCancel k o (Machine.countOutcome k o s) else Machine.countOutcome k o s) := by
    split
    · next hk => exact h2 _ h1 t1 hk
    · exact h1
  unfold Machine.takeCancel
  dsimp only
  split
  exacts [h3 _ h4, h4]

theorem finishExchange (h : KeptByRecords thr Q) (n : Fin 8) (c : Condition) {s : State} (hs : atAll Q s) :
    atAll Q (finishExchange n c s) := by
  unfold Machine.finishExchange
  refine atAll_congr (enterEnded_frame _ _ _ _).2.2.2.2.1 (atAll_updOf _ hs ?_)
  intro m hm
  split
  exacts [h.releaseForCancel _ _ m hm, h.release _ m hm]

theorem slotError (h : KeptByRecords thr Q) (n : Fin 8) (e : ErrorKind) {s : State} (hs : atAll Q s) :
    atAll Q (slotError n e s) := by
  unfold Machine.slotError
  dsimp only
  split
  exacts [h.finishExchange n _ (s := s.updSlot n _) hs, hs]

theorem applySlotOutcome (h : KeptByRecords thr Q) (n : Fin 8) (q : SlotRequest) (o : TxnOutcome) {s : State}
    (hs : atAll Q s) : atAll Q (applySlotOutcome n q o s) := by
  unfold Machine.applySlotOutcome
  split
  · unfold slotReply
    split
    · unfold slotHold; dsimp only; split; exacts [h.finishExchange n _ (s := s.updSlot n _) hs, hs]
    · exact h.finishExchange n _ (s := s.updSlot n _) hs
    · split <;> exact hs
    · split
      · unfold dataReply
        dsimp only
        split
        · exact h.finishExchange _ _ hs
        · split
          · exact h.slotError _ _ hs
          · exact hs
      all_goals exact hs
    · split
      · unfold resultReply; split
        · exact h.finishExchange n _ (s := s.updSlot n _) hs
        · exact h.finishExchange _ _ hs
      all_goals exact hs
    all_goals exact hs
  all_goals first | exact hs | exact h.slotError _ _ hs

theorem takeSlotOutcome (h : KeptByRecords thr Q) (n : Fin 8) (o : TxnOutcome) {s : State} (hs : atAll Q s) :
    atAll Q (takeSlotOutcome n o s) := by
  have hr : ∀ t : State, atAll Q t → atAll Q (resolveAbort n t) :=
    fun t hq => atAll_congr (resolveAbort_frame n t).2.2.2.2.1 hq
  unfold Machine.takeSlotOutcome
  dsimp only
  split
  · exact hs
  · split
    · exact hr _ (h.applySlotOutcome _ _ _ hs)
    · exact hs

theorem routeOutcome (h : KeptByRecords thr Q) (t : Txn) (o : TxnOutcome) {s : State}
    (ht : s.link.threshold.toNat = thr) (hs : atAll Q s) : atAll Q (routeOutcome t o s) := by
  have hr : ∀ k, atAll Q (routeSlot k o s) := by
    intro k
    unfold routeSlot
    split
    exacts [h.takeSlotOutcome _ _ (h.countOutcome _ _ ht hs), h.countOutcome _ _ ht hs]
  unfold Machine.routeOutcome
  dsimp only
  split
  · unfold routeTo
    split
    · exact hs
    · exact h.takeScan _ _ ht hs
    · exact h.takeProbe _ _ hs
    · exact h.takeCancel _ _ ht hs
    all_goals exact hr _
  · exact hs

/-- A change a pick may make. -/
theorem picked (h : KeptByRecords thr Q) (n : Fin 8) {s : State} (he : slotEligible n s = true) (hs : atAll Q s) :
    atAll Q (startSlot n s) := by
  refine atAll_congr (s := leaveQueue n s) (startSlot_table n s) ?_
  unfold leaveQueue
  split
  · next hq =>
    simp only [slotEligible, hq, queuedEligible] at he
    cases hm : (s.slotAt n).module with
    | none => rw [hm] at he; cases he
    | some j =>
      rw [hm] at he
      simp only [Bool.and_eq_true, beq_iff_eq] at he
      intro i
      rw [pickFromQueued_moduleAt (moduleIndex_eq_some.mp hm)]
      split
      · next e => subst e; exact h.claim n _ (hs i) he.1.2 he.2
      · exact hs i
  · exact hs

theorem acyclicPick (h : KeptByRecords thr Q) {s : State} (hs : atAll Q s) : atAll Q (acyclicPick s) := by
  have hp : ∀ t : State, atAll Q t → atAll Q (probeStage t) := fun t => atAll_congr (probeStage_frame t).2.2.1
  have hx : atAll Q (searchSlots (slotOrder s.sched.rrPtr) s).1 := atAll_congr (searchSlots_frame _ s).2.2.2.2.1 hs
  unfold Machine.acyclicPick
  split
  · split
    exacts [hs, hp _ hs]
  · split
    · next t n e =>
      rw [e] at hx
      split
      · exact h.picked n (searchSlots_found e) hx
      · exact hp _ hx
    · next t e => rw [e] at hx; exact hp _ hx

theorem cycleEnd (h : KeptByRecords thr Q) (x : CycleStatus) (c : Nat) {s : State} (hs : atAll Q s) :
    atAll Q (cycleEnd x c s) := fun k => by rw [cycleEnd_moduleAt]; exact h.aged _ (hs k)

theorem cycleStart (late : Bool) {s : State} (hs : atAll Q s) : atAll Q (cycleStart late s) :=
  atAll_congr (cycleStart_frame late s).2.2.1 hs

theorem overrunCut (h : KeptByRecords thr Q) (late : Bool) {s : State} (hs : atAll Q s) :
    atAll Q (overrunCut late s) := KeptByRecords.cycleStart late (h.cycleEnd _ _ hs)

theorem walk (h : KeptByRecords thr Q) {s : State} (hs : atAll Q s) : atAll Q (walk s) := by
  unfold Machine.walk
  split
  · exact hs
  · exact h.acyclicPick (s := { Machine.cycleEnd .complete 0 _ with sched := _ })
      (h.cycleEnd .complete 0 (s := { s with sched := _ }) hs)

theorem nextDecision (h : KeptByRecords thr Q) {s : State} (hs : atAll Q s) : atAll Q (nextDecision s) := by
  have hm : atAll Q { s with sched := { s.sched with stage := .scan } } := hs
  unfold Machine.nextDecision
  dsimp only
  split
  · split
    exacts [h.overrunCut _ hm, h.walk hm]
  · split
    exacts [h.overrunCut _ hs, h.walk hs]
  · split
    exacts [KeptByRecords.cycleStart _ hs, h.acyclicPick hs]
  · split
    exacts [KeptByRecords.cycleStart _ hs, hs]
  · split
    exacts [KeptByRecords.cycleStart _ hs, hs]
  · exact hs

theorem linkDownStep (h : KeptByRecords thr Q) (c : Condition) {s : State} (hs : atAll Q s) :
    atAll Q (linkDownStep c s) := fun k => by rw [linkDownStep_moduleAt]; exact h.linkDown _ (hs k)

theorem stopDone (h : KeptByRecords thr Q) {s : State} (hs : atAll Q s) : atAll Q (stopDone s) := by
  unfold Machine.stopDone
  dsimp only
  refine atAll_congr (abortSlots_frame _ _).2.2.2.2.1 ?_
  unfold stoppedCycleEnd
  have hc : atAll Q (changeLink .idle .stopDone (drivePair s)) := hs
  split
  exacts [h.cycleEnd _ _ hc, h.cycleEnd _ _ hc, hc, hc, hc, hc]

theorem decideInOrder (h : KeptByRecords thr Q) (order : EndOrder) {s : State} (hs : atAll Q s) :
    atAll Q (decideInOrder order s) := by
  rcases decideInOrder_cases order s with e | ⟨_, ⟨_, e⟩ | ⟨_, e⟩⟩ <;> rw [e]
  exacts [h.nextDecision hs, hs, hs]

/-- The end of a transaction. -/
theorem endTxn (h : KeptByRecords thr Q) (t : Txn) (o : TxnOutcome) (order : EndOrder) {s : State}
    (ht : s.link.threshold.toNat = thr) (hs : atAll Q s) : atAll Q (endTxn t o order s) := by
  have hr : atAll Q (Machine.routeOutcome t o (removeTxn o s)) := h.routeOutcome t o (s := removeTxn o s) ht hs
  unfold Machine.endTxn afterOutcome
  split
  · exact h.linkDownStep _ (s := changeLink .fault .echoLimit (releasePair _)) hr
  · split
    exacts [h.decideInOrder order hr, h.stopDone hr, hr, hr, hr, hr]

/-- The end of a transaction that SHUTDOWN cuts. -/
theorem cutTxn (h : KeptByRecords thr Q) {s : State} (ht : s.link.threshold.toNat = thr) (hs : atAll Q s) :
    atAll Q (cutTxn s) := by
  unfold Machine.cutTxn
  split
  · exact h.routeOutcome _ _ (s := { s with line := _ }) ht hs
  · exact hs

/-- What an expiry leads to. -/
theorem afterExpiry (h : KeptByRecords thr Q) {s : State} (hs : atAll Q s) : atAll Q (afterExpiry s) := by
  unfold Machine.afterExpiry
  split
  · split
    · exact hs
    · split
      exacts [h.overrunCut _ hs, h.overrunCut _ hs, KeptByRecords.cycleStart _ hs, KeptByRecords.cycleStart _ hs,
        KeptByRecords.cycleStart _ hs, hs]
  all_goals exact hs

/-- The slot number joins the list of a module that takes slots. -/
theorem atAll_append {s t : State} (n : Fin 8) (x : Slot) (e : t.table = s.table) (hm : s.moduleTakesSlot x = true)
    (hq : ∀ m, Q m → m.state.takesSlots = true → Q (m.append n)) (hs : atAll Q s) :
    atAll Q (t.updModuleOf x (ModuleRecord.append n)) := by
  unfold State.updModuleOf
  unfold State.moduleTakesSlot at hm
  have ht := atAll_congr e hs
  split
  · next k hk =>
    rw [hk] at hm
    exact atAll_upd k ht (hq _ (ht k) (by rw [State.moduleAt_congr e k]; exact hm))
  · exact ht

end KeptByRecords

/-- A property of a module record that power-on reset has, and that platform reset and the commands of the module
table keep, each where the command is taken. -/
structure KeptByModuleCommands (Q : ModuleRecord → Prop) : Prop where
  reset : Q ModuleRecord.reset
  platform : ∀ m, Q m → Q m.platformReset
  field : ∀ v r m, Q m → m.state.inService = false → Q (m.putField v r)
  expect : ∀ m, Q m → m.state.expectable = true → m.mapOk = true → Q m.enterExpected
  adopt : ∀ m, Q m → m.state.adoptable = true → m.formatOk = true → m.lengthOk = true →
    Q { m.enterPresent with expectedType := m.repType }
  forget : ∀ m, Q m → m.state ≠ .disabled → m.unused = true → Q (m.setAside .vacant)
  disable : ∀ m, Q m → m.state ≠ .disabled → m.unused = true →
    Q { m.setAside .disabled with wasConfigured := m.state.configured }
  enable : ∀ m, Q m → m.state = .disabled →
    Q { m with state := if m.wasConfigured then .expected else .vacant, age := 255, refreshed := false }

/-- The state POST hands to the queueing: the module table is as before, and so is the slot's module. -/
theorem bindArea_kept (n : Fin 8) (s : State) :
    (bindArea n (s.slotAt n).host (clearRun n s)).table = s.table ∧
    (bindArea n (s.slotAt n).host (clearRun n s)).slotAt n = { s.slotAt n with run := SlotRun.cleared } := by
  unfold bindArea clearRun
  split
  · exact ⟨rfl, by rw [State.slotAt_congr (State.setArea_exch _ _ _)]; simp⟩
  · exact ⟨rfl, by simp⟩

theorem retireSlot_table (n : Fin 8) (s : State) : (retireSlot n s).table = (oweCancel n s).table := by
  unfold retireSlot unbindArea clearRun
  split <;> simp

open KeptByRecords in
/-- A property of a record that every change of a record and every module command keeps, at every module, is kept by
every effect. -/
theorem modules_keep {Q : ModuleRecord → Prop} (hr : ∀ threshold, KeptByRecords threshold Q)
    (hm : KeptByModuleCommands Q) : KeptByEffects (atAll Q) where
  powerOn s _ := fun k => by
    have e : ({ State.reset with pending := s.pending } : State).moduleAt k = ModuleRecord.reset := by
      simp [State.moduleAt, State.reset, ModuleTable.reset]
    rw [e]; exact hm.reset
  platform s h := fun k => by
    have e : (platformValues s).moduleAt k = (s.moduleAt k).platformReset := by simp [State.moduleAt, platformValues]
    rw [e]; exact hm.platform _ (h k)
  window _ _ h := h
  pending _ _ h := h
  windowEvent _ h := h
  plain _ _ _ h := by
    unfold writePlain
    (repeat' split) <;> (try unfold writeSubject) <;> (repeat' split) <;> exact h
  start _ h _ := h
  run _ h _ := KeptByRecords.cycleStart _ h
  stop _ h _ := by unfold stopLink; dsimp only; split; exacts [(hr 0).stopDone h, h]
  shutdown s h _ := by
    have hc := (hr s.link.threshold.toNat).cutTxn rfl h
    exact (hr 0).linkDownStep _ (s := { changeLink .off .command (releasePair (Machine.cutTxn s)) with line := _ }) hc
  linkConfig _ _ _ h _ := by unfold putLinkConfig; split <;> exact h
  cycleLength _ _ _ h _ := by unfold putCycleLength; split <;> exact h
  scanList _ _ _ h _ := by unfold putScanList; split <;> exact h
  searchVacant _ _ h _ := h
  moduleField v r _ h hk := atAll_upd _ h (hm.field v r _ (h _) hk)
  expect _ h h1 h2 := atAll_upd _ h (hm.expect _ (h _) h1 h2)
  adopt _ h h1 h2 h3 := atAll_upd _ h (hm.adopt _ (h _) h1 h2 h3)
  forget _ h h1 h2 := atAll_upd _ h (hm.forget _ (h _) h1 h2)
  disable _ h h1 h2 := atAll_upd _ h (hm.disable _ (h _) h1 h2)
  enable _ h h1 := atAll_upd _ h (hm.enable _ (h _) h1)
  staging _ _ _ h := by unfold putStaging; split <;> exact h
  imageFlags _ _ h _ _ _ _ _ _ := h
  slotField _ _ _ h _ := h
  limit _ _ _ h _ := by unfold putLimit; split <;> exact h
  post s h _ _ h3 _ := by
    have hb := bindArea_kept s.exch.subject s
    unfold postSlot enqueueSlot
    refine atAll_append _ _ ?_ ?_ ((hr 0).append _) h
    · rw [State.updSlot_table, hb.1]
    · rw [hb.2]; exact h3
  retire s h _ := by
    refine atAll_congr (retireSlot_table _ s) ?_
    unfold oweCancel
    dsimp only
    split
    · exact atAll_updOf _ h ((hr 0).releaseForCancel _ _)
    · exact h
  restart s h _ h2 := by
    unfold enqueueSlot
    refine atAll_append _ _ rfl ?_ ((hr 0).append _) h
    have e : (clearRun s.exch.subject s).slotAt s.exch.subject =
        { s.slotAt s.exch.subject with run := SlotRun.cleared } := by simp [clearRun]
    rw [e]; exact h2
  abortQueued s h _ := atAll_congr (abortInPhase_frame _ _).2.2.2.2.1 (atAll_updOf _ h ((hr 0).remove _))
  abortInFlight _ h _ _ := h
  abortInPhase _ h _ _ := h
  resumeQueued s h _ _ h2 := by
    unfold enqueueSlot
    refine atAll_append _ _ rfl ?_ ((hr 0).append _) h
    rw [State.slotAt_updSlot_same]; exact h2
  resumePhase _ h _ _ := h
  staged _ _ _ h := by unfold putStaged; split <;> exact h
  configure _ h _ _ := h
  flush _ h _ := h
  portWrite _ _ h _ _ _ := h
  portRead _ h _ _ _ := h
  pop _ h _ := h
  clearLost _ h := h
  clearing _ _ h := h
  intEnable _ _ h := h
  attnEnable _ _ h := h
  pulseStart _ h _ := h
  pulseEnd _ h := h
  checkPassed _ h _ := h
  checkFailed _ _ h _ := (hr 0).linkDownStep _ (s := changeLink .fault .lineHeld (releasePair _)) h
  expiry _ s h _ := (hr 0).afterExpiry (s := { s with sched := _ }) h
  gap _ _ h _ _ := h
  settle _ _ _ _ _ h _ _ := h
  await _ _ _ h _ _ _ := h
  receive _ _ _ h _ _ := h
  markEnd t d order s h _ _ _ _ _ :=
    (hr s.link.threshold.toNat).endTxn t _ order (s := { s.elapse d with line := _ }) rfl h
  txnEnd t o d order s h _ _ _ _ _ _ := (hr s.link.threshold.toNat).endTxn t o order (s := s.elapse d) rfl h
  due _ h _ _ _ := (hr 0).nextDecision h

end Sys2Proof.Machine
end

