-- ==== Sys2Proof/Laws/Notices.lean ====
section
/-! SUPPORT. What the shared operations do to the notice unit, said once: offers and raises alone; so a property of the notice unit that offers and raises keep is kept by every one of them. -/

namespace Sys2Proof.Machine

/-- A property of the notice unit that offers keep, and raises of the kinds that the blocks raise by themselves (all but
NOTICE_WAITING, which the queue alone raises). -/
def KeptByNotices (P : NoticeUnit → Prop) : Prop :=
  (∀ c b n, P n → P (n.offer c b)) ∧ (∀ k n, k ≠ .noticeWaiting → P n → P (n.raise k))

namespace KeptByNotices

variable {P : NoticeUnit → Prop}

theorem offer (h : KeptByNotices P) (b : NoticeBody) {s : State} (hs : P s.notices) : P (s.offer b).notices :=
  h.1 _ _ _ hs

theorem raise (h : KeptByNotices P) {k : EventKind} (hk : k ≠ .noticeWaiting) {s : State} (hs : P s.notices) :
    P (s.raise k).notices := h.2 _ _ hk hs

theorem changeLink (h : KeptByNotices P) (st : LinkState) (c : LinkCause) {s : State} (hs : P s.notices) :
    P (changeLink st c s).notices := h.2 _ _ (by decide) (h.1 _ _ _ hs)

theorem enterEnded (h : KeptByNotices P) (n : Fin 8) (st : SlotState) (c : Condition) {s : State}
    (hs : P s.notices) : P (enterEnded n st c s).notices := h.1 _ _ _ hs

theorem failSlots (h : KeptByNotices P) (c : Condition) (l : List (Fin 8)) {s : State} (hs : P s.notices) :
    P (failSlots c l s).notices := by
  induction l generalizing s with
  | nil => exact hs
  | cons n l ih => exact ih (h.enterEnded n _ c hs)

theorem failSlotsDown (h : KeptByNotices P) (c : Condition) (l : List (Fin 8)) {s : State} (hs : P s.notices) :
    P (failSlotsDown c l s).notices := by
  induction l generalizing s with
  | nil => exact hs
  | cons n l ih => unfold Machine.failSlotsDown; apply ih; split; exacts [h.enterEnded n _ c hs, hs]

theorem abortInPhase (h : KeptByNotices P) (n : Fin 8) {s : State} (hs : P s.notices) :
    P (abortInPhase n s).notices := h.enterEnded n _ _ hs

theorem abortSlots (h : KeptByNotices P) (l : List (Fin 8)) {s : State} (hs : P s.notices) :
    P (abortSlots l s).notices := by
  induction l generalizing s with
  | nil => exact hs
  | cons n l ih => unfold Machine.abortSlots; apply ih; split; exacts [h.abortInPhase n hs, hs]

theorem failHolder (h : KeptByNotices P) (x : Holder) {s : State} (hs : P s.notices) : P (failHolder x s).notices := by
  cases x
  exacts [hs, h.enterEnded _ _ _ hs, hs]

theorem enterLost (h : KeptByNotices P) (k : Fin 30) (c : ModuleCause) {s : State} (hs : P s.notices) :
    P (enterLost k c s).notices := by
  unfold Machine.enterLost
  rw [State.updModule_notices]
  apply h.failSlots
  rw [State.updModule_notices]
  exact h.failHolder _ (h.offer _ hs)

theorem countFailure (h : KeptByNotices P) (k : Fin 30) {s : State} (hs : P s.notices) :
    P (countFailure k s).notices := by
  unfold Machine.countFailure; dsimp only; split; exacts [hs, h.enterLost _ _ hs]

theorem countOutcome (h : KeptByNotices P) (k : Fin 30) (o : TxnOutcome) {s : State} (hs : P s.notices) :
    P (countOutcome k o s).notices := by
  unfold Machine.countOutcome
  split
  · split <;> first | exact hs | exact h.countFailure _ hs
  · exact hs

theorem takeScanReply (h : KeptByNotices P) (k : Fin 30) (p : List Byte) {s : State} (hs : P s.notices) :
    P (takeScanReply k p s).notices := by
  unfold Machine.takeScanReply watchStatus
  rw [State.updModule_notices]
  split
  exacts [h.offer _ hs, hs]

theorem takeScan (h : KeptByNotices P) (k : Fin 30) (o : TxnOutcome) {s : State} (hs : P s.notices) :
    P (takeScan k o s).notices := by
  unfold Machine.takeScan
  split
  · split
    · exact h.takeScanReply _ _ hs
    · exact hs
  all_goals first | exact hs | exact h.countOutcome _ _ hs

theorem enterMismatch (h : KeptByNotices P) (k : Fin 30) (c : MismatchCause) {s : State} (hs : P s.notices) :
    P (enterMismatch k c s).notices := by
  unfold Machine.enterMismatch
  rw [State.updModule_notices]
  exact h.failSlots _ _ (h.offer _ hs)

theorem judgeIdent (h : KeptByNotices P) (k : Fin 30) {s : State} (hs : P s.notices) :
    P (judgeIdent k s).notices := by
  unfold Machine.judgeIdent
  dsimp only
  split <;> first | exact h.offer _ hs | exact h.enterMismatch _ _ hs

theorem takeProbe (h : KeptByNotices P) (k : Fin 30) (o : TxnOutcome) {s : State} (hs : P s.notices) :
    P (takeProbe k o s).notices := by
  unfold Machine.takeProbe
  split
  · unfold takeIdent
    split
    · exact h.judgeIdent _ hs
    · exact h.judgeIdent _ hs
    · split
      · exact h.offer _ hs
      · exact hs
    all_goals exact hs
  all_goals exact hs

theorem takeCancel (h : KeptByNotices P) (k : Fin 30) (o : TxnOutcome) {s : State} (hs : P s.notices) :
    P (takeCancel k o s).notices := by
  have h1 : P (Machine.countOutcome k o s).notices := h.countOutcome k o hs
  have h2 : ∀ t : State, P t.notices → P (settleCancel k o t).notices := by
    intro t ht
    unfold settleCancel
    split
    · split
      · split
        · exact ht
        · exact ht
        · unfold holdCancel; dsimp only; split; exacts [h.enterLost _ _ ht, ht]
        all_goals exact ht
      all_goals exact ht
    all_goals exact ht
  have h3 : ∀ t : State, P t.notices → P (deferCancel k t).notices := by
    intro t ht; unfold deferCancel; split <;> exact ht
  unfold Machine.takeCancel
  dsimp only
  split
  · apply h3; split; exacts [h2 _ h1, h1]
  · split; exacts [h2 _ h1, h1]

theorem finishExchange (h : KeptByNotices P) (n : Fin 8) (c : Condition) {s : State} (hs : P s.notices) :
    P (finishExchange n c s).notices := by
  unfold Machine.finishExchange
  apply h.enterEnded
  rw [(State.updModuleOf_frame _ _ _).2.2.2.2.2.2.2.1]
  exact hs

theorem slotError (h : KeptByNotices P) (n : Fin 8) (e : ErrorKind) {s : State} (hs : P s.notices) :
    P (slotError n e s).notices := by
  unfold Machine.slotError; dsimp only; split; exacts [h.finishExchange _ _ hs, hs]

theorem applySlotOutcome (h : KeptByNotices P) (n : Fin 8) (q : SlotRequest) (o : TxnOutcome) {s : State}
    (hs : P s.notices) : P (applySlotOutcome n q o s).notices := by
  unfold Machine.applySlotOutcome
  split
  · unfold slotReply
    split
    · unfold slotHold; dsimp only; split; exacts [h.finishExchange _ _ hs, hs]
    · exact h.finishExchange _ _ hs
    · split <;> exact hs
    · split
      · unfold dataReply
        dsimp only
        split
        · exact h.finishExchange _ _ hs
        · split
          · exact h.slotError _ _ hs
          · exact hs
      all_goals exact hs
    · split
      · unfold resultReply; split
        · exact h.finishExchange _ _ hs
        · exact h.finishExchange _ _ hs
      all_goals exact hs
    all_goals exact hs
  all_goals first | exact hs | exact h.slotError _ _ hs

theorem takeSlotOutcome (h : KeptByNotices P) (n : Fin 8) (o : TxnOutcome) {s : State} (hs : P s.notices) :
    P (takeSlotOutcome n o s).notices := by
  have hr : ∀ t : State, P t.notices → P (resolveAbort n t).notices := by
    intro t ht; unfold resolveAbort; split; exacts [h.enterEnded _ _ _ ht, ht]
  unfold Machine.takeSlotOutcome
  dsimp only
  split
  · exact hs
  · split
    · exact hr _ (h.applySlotOutcome _ _ _ hs)
    · exact hs

theorem routeOutcome (h : KeptByNotices P) (t : Txn) (o : TxnOutcome) {s : State} (hs : P s.notices) :
    P (routeOutcome t o s).notices := by
  have hr : ∀ k, P (routeSlot k o s).notices := by
    intro k
    unfold routeSlot
    split
    exacts [h.takeSlotOutcome _ _ (h.countOutcome _ _ hs), h.countOutcome _ _ hs]
  unfold Machine.routeOutcome
  dsimp only
  split
  · unfold routeTo
    split
    · exact hs
    · exact h.takeScan _ _ hs
    · exact h.takeProbe _ _ hs
    · exact h.takeCancel _ _ hs
    all_goals exact hr _
  · exact hs

theorem cycleEnd (h : KeptByNotices P) (x : CycleStatus) (c : Nat) {s : State} (hs : P s.notices) :
    P (cycleEnd x c s).notices := by
  rw [cycleEnd_notices]
  apply h.2 _ _ (by decide)
  split
  exacts [h.2 _ _ (by decide) (h.1 _ _ _ hs), hs]

theorem cycleStart (h : KeptByNotices P) (late : Bool) {s : State} (hs : P s.notices) :
    P (cycleStart late s).notices := by
  have hi : ∀ t : State, P t.notices → P (imageCycleStart t).notices := by
    intro t ht
    unfold imageCycleStart
    split
    · exact ht
    · unfold advanceSupervision
      dsimp only
      split
      · exact ht
      · split
        · exact h.2 _ _ (by decide) (h.1 _ _ _ ht)
        · exact ht
  exact hi _ hs

theorem overrunCut (h : KeptByNotices P) (late : Bool) {s : State} (hs : P s.notices) :
    P (overrunCut late s).notices := h.cycleStart _ (h.cycleEnd _ _ hs)

theorem walk (h : KeptByNotices P) {s : State} (hs : P s.notices) : P (walk s).notices := by
  unfold Machine.walk
  split
  · exact hs
  · rw [(enterAcyclic_frame _).2.2.2.2.1]; exact h.cycleEnd _ _ hs

theorem nextDecision (h : KeptByNotices P) {s : State} (hs : P s.notices) : P (nextDecision s).notices := by
  unfold Machine.nextDecision
  dsimp only
  split
  · split
    exacts [h.overrunCut _ hs, h.walk hs]
  · split
    exacts [h.overrunCut _ hs, h.walk hs]
  · split
    · exact h.cycleStart _ hs
    · rw [(acyclicPick_frame _).2.2.2.2.1]; exact hs
  · split
    exacts [h.cycleStart _ hs, hs]
  · split
    exacts [h.cycleStart _ hs, hs]
  · exact hs

theorem linkDownStep (h : KeptByNotices P) (c : Condition) {s : State} (hs : P s.notices) :
    P (linkDownStep c s).notices := by
  unfold Machine.linkDownStep
  dsimp only
  exact h.failSlotsDown c allSlots (s := mapModulesDown s) hs

theorem enterFault (h : KeptByNotices P) (c : LinkCause) {s : State} (hs : P s.notices) :
    P (enterFault c s).notices := h.linkDownStep _ (h.changeLink _ _ hs)

theorem enterOff (h : KeptByNotices P) {s : State} (hs : P s.notices) : P (enterOff s).notices := by
  apply h.linkDownStep
  exact h.changeLink .off .command (s := releasePair s) hs

theorem stopDone (h : KeptByNotices P) {s : State} (hs : P s.notices) : P (stopDone s).notices := by
  apply h.abortSlots
  unfold stoppedCycleEnd
  have hc : P (Machine.changeLink .idle .stopDone (drivePair s)).notices := h.changeLink _ _ hs
  dsimp only
  split
  exacts [h.cycleEnd _ _ hc, h.cycleEnd _ _ hc, hc, hc, hc, hc]

theorem decideInOrder (h : KeptByNotices P) (order : EndOrder) {s : State} (hs : P s.notices) :
    P (decideInOrder order s).notices := by
  rcases decideInOrder_cases order s with e | ⟨_, ⟨_, e⟩ | ⟨_, e⟩⟩ <;> rw [e]
  exacts [h.nextDecision hs, hs, hs]

theorem endTxn (h : KeptByNotices P) (t : Txn) (o : TxnOutcome) (order : EndOrder) {s : State} (hs : P s.notices) :
    P (endTxn t o order s).notices := by
  have hr := h.routeOutcome t o (s := removeTxn o s) hs
  unfold Machine.endTxn afterOutcome
  split
  · exact h.enterFault _ hr
  · split
    exacts [h.decideInOrder order hr, h.stopDone hr, hr, hr, hr, hr]

end KeptByNotices

end Sys2Proof.Machine
end

