-- ==== Sys2Proof/Laws/Reset.lean ====
section
/-! SUPPORT. Slots, modules and areas after the two resets, one lemma each. -/

namespace Sys2Proof.Machine

/-- The state after POWER_ON_RESET: the reset state, with the waiting commands kept. -/
theorem execPowerOnReset_eq (s : State) : execPowerOnReset s = .next { State.reset with pending := s.pending } := rfl

@[simp] theorem State.reset_slotAt (q : List Instr) (n : Fin 8) :
    ({ State.reset with pending := q } : State).slotAt n = Slot.reset := by
  simp [State.slotAt, State.reset, ExchangeUnit.reset]

@[simp] theorem State.reset_moduleAt (q : List Instr) (k : Fin 30) :
    ({ State.reset with pending := q } : State).moduleAt k = ModuleRecord.reset := by
  simp [State.moduleAt, State.reset, ModuleTable.reset]

@[simp] theorem State.reset_areaAt (q : List Instr) (a : Fin 4) :
    ({ State.reset with pending := q } : State).areaAt a = AreaRecord.reset (1024 * a.val) := by
  have h : ∀ a : Fin 4, AreaUnit.reset.records[a] = AreaRecord.reset (1024 * a.val) := by decide
  exact h a

@[simp] theorem platformValues_slotAt (s : State) (n : Fin 8) : (platformValues s).slotAt n = Slot.reset := by
  simp [State.slotAt, platformValues, ExchangeUnit.reset]

@[simp] theorem platformValues_moduleAt (s : State) (k : Fin 30) :
    (platformValues s).moduleAt k = (s.moduleAt k).platformReset := by
  simp [State.moduleAt, platformValues]

@[simp] theorem platformValues_areaAt (s : State) (a : Fin 4) :
    (platformValues s).areaAt a = (s.areaAt a).platformReset := by
  simp [State.areaAt, platformValues]

end Sys2Proof.Machine
end

