-- ==== Sys2Proof/Tests/Slice0.lean ====
section
/-! SUPPORT. Small tests of the checks and of the commands, one step each, and for every obligation with hypotheses a state and operands that meet them. -/

namespace Sys2Proof.Tests

open Sys2Proof.Machine

/-! ### Small states -/

/-- UNIT and INDEX set. -/
def at' (unit index : Byte) (s : State) : State := { s with window := { s.window with unit := unit, index := index } }

/-- The state a command leads to, where it leads to one. -/
def after (c : Instr) (s : State) : State :=
  match exec c s with
  | .next t => t
  | .fault _ => s
  | .refused _ => s

/-- The link in a state. -/
def linked (l : LinkState) (s : State) : State := { s with link := { s.link with state := l } }

/-- A transaction in flight to module 1. -/
def txn (kind : RequestKind) (phase : TxnPhase) (cause : Option SettlingCause) : Txn where
  kind := kind
  address := 1
  payload := []
  seqBit := false
  allowed := allowedReplies kind
  exactLength := if kind = .scan then some 2 else none
  phase := phase
  received := []
  settling := cause

/-- A MARK being sent. -/
def mark : Txn := { txn .mark .sending none with address := 31, payload := [1#8, 0#8] }

/-- A state with a transaction in flight. -/
def flying (t : Txn) (s : State) : State := { s with line := { s.line with txn := some t } }

/-- A module record with an input byte. -/
def inService : ModuleRecord := { ModuleRecord.reset with state := .present, inLength := 1#8 }

/-- RUNNING in stage SCAN with module 1 in service and first in a list of one entry. -/
def scanning : State :=
  let s := (linked .running State.reset).setModule 0 inService
  { s with sched := { s.sched with
      stage := .scan, timer := .running 20000, scanLength := 1#8, scanEntries := s.sched.scanEntries.set 0 1#8 } }

/-- RUNNING in stage ACYCLIC with module 1 in service. -/
def acyclic : State := { scanning with sched := { scanning.sched with stage := .acyclic } }

/-- RUNNING in stage MARK. -/
def marking : State := { scanning with sched := { scanning.sched with stage := .mark } }

/-- RUNNING in stage SCAN with no transaction in flight: the walk is due. -/
def due : State := scanning

/-- A timer with nothing left of it. -/
def late (s : State) : State := { s with sched := { s.sched with timer := .expired } }

/-- A SCAN settling after the third echo in a row that differed. -/
def thirdFault (l : LinkState) : State :=
  let s := linked l (flying (txn .scan .settling (some .echoFault)) scanning)
  { s with line := { s.line with echoFaults := 2 } }

/-- The selected module's record set. -/
def modular (m : ModuleRecord) (s : State) : State := s.setModule s.table.subject m

/-- Host fields of a COMMAND_ONLY exchange with module 1. -/
def hosted : SlotHost := { SlotHost.reset with moduleAddr := 1#8, blockLength := 4#8 }

/-- Host fields of a WRITE of 4 bytes to module 1 through area 0. -/
def writing : SlotHost := { hosted with kind := 1#8, declared := 4#16 }

/-- Slot 0 in a state with a request in flight, or none. -/
def slotted (h : SlotHost) (st : SlotState) (p : Phase) (q : Option SlotRequest) (s : State) : State :=
  s.setSlot 0 { host := h, state := st, run := { SlotRun.cleared with recordedPhase := p }, inFlight := q }

/-- Slot 0 holding module 1. -/
def held (h : SlotHost) (st : SlotState) (p : Phase) (q : Option SlotRequest) (s : State) : State :=
  (slotted h st p q s).setModule 0 { inService with holder := .slot 0 }

/-- A good SCAN_REPLY of module 1: status 80h, one input byte 55h. -/
def scanReply : List Byte :=
  let body : List Byte := [0#8, 1#8, 0x09#8, 2#8, 0x80#8, 0x55#8]
  body ++ [hiByte (frameCheck body), loByte (frameCheck body)]

/-! ### The checks on operands refuse what is out of range -/

theorem test_refuses_too_many_high_samples : Instr.wellFormed (.lineCheckFailed 2048) = false := by decide
theorem test_takes_last_high_sample : Instr.wellFormed (.lineCheckFailed 2047) = true := by decide
theorem test_refuses_echo_of_nothing : Instr.wellFormed (.requestEchoed []) = false := by decide
theorem test_refuses_mismatch_of_nothing : Instr.wellFormed (.echoMismatch []) = false := by decide
theorem test_refuses_mismatch_past_longest :
    Instr.wellFormed (.echoMismatch (List.replicate 71 { data := 0#8, stop := true })) = false := by decide
theorem test_refuses_wait_past_longest_window : Instr.wellFormed (.replyStart 256) = false := by decide
theorem test_refuses_faultless_receive_fault :
    Instr.wellFormed (.receiveFault [0#8, 1#8, 9#8, 2#8] false 0) = false := by decide
theorem test_takes_reserved_bit_fault : Instr.wellFormed (.receiveFault [0x80#8, 1#8, 9#8, 2#8] false 0) = true := by
  decide
theorem test_refuses_quiet_limit_at_full_length :
    Instr.wellFormed (.quietLimitExpiry [0#8, 1#8, 0xB#8, 0#8, 0#8, 0#8] 0) = false := by decide
theorem test_refuses_short_settling : Instr.wellFormed (.settlingEnd 19) = false := by decide
theorem test_refuses_reply_without_check : Instr.wellFormed (.replyReceived [0#8, 1#8, 0xB#8, 0#8] 0) = false := by
  decide

/-! ### The check and the header of a frame (R6, R189) -/

theorem test_check_reference :
    frameCheck [0x31#8, 0x32#8, 0x33#8, 0x34#8, 0x35#8, 0x36#8, 0x37#8, 0x38#8, 0x39#8] = 0x29B1#16 := by
  decide +kernel

/-- A PUT of 14 bytes to module 21 with sequence bit 1. -/
theorem test_header_of_put : headerBytes 21 0 true RequestKind.put.code 14 = [0x15#8, 0#8, 0x15#8, 0x0E#8] := by decide

theorem test_reply_classified :
    classifyReply (txn .scan .receiving none) scanReply =
      .reply (some { kind := .scanReply, payload := [0x80#8, 0x55#8], seqBit := false }) := by
  decide +kernel

/-! ### Resets and the window -/

theorem test_powerOnReset : after .powerOnReset scanning = State.reset := by decide
theorem test_platformReset : (after .platformReset scanning).window.prst = true ∧
    (after .platformReset scanning).link.state = .off ∧
    ((after .platformReset scanning).moduleAt 0).state = .expected := by decide
theorem test_platformResetRelease :
    (after .platformResetRelease (after .platformReset scanning)).window.prst = false := by decide
theorem test_unitWrite : (after (.unitWrite 9#8) State.reset).window.unit = 9#8 := by decide
theorem test_indexWrite : (after (.indexWrite 9#8) State.reset).window.index = 9#8 := by decide
theorem test_noUnitAccess : (after (.noUnitAccess .read) (at' 8#8 0#8 State.reset)).window.error =
    { cause := .noUnit, unit := 8#8, index := 0#8, more := false } := by decide
theorem test_noIndexAccess : (after (.noIndexAccess (.write 1#8)) (at' 1#8 0xFF#8 State.reset)).window.error.cause =
    .noIndex ∧ (after (.noIndexAccess (.write 1#8)) (at' 1#8 0xFF#8 State.reset)).window.index = 0#8 := by
  decide
theorem test_registerWrite_subject :
    (after (.registerWrite 30#8) (at' 3#8 2#8 State.reset)).table.subject = 29 := by decide
theorem test_registerWrite_readOnly :
    (after (.registerWrite 1#8) (at' 1#8 4#8 State.reset)).window.error.cause = .readOnly := by decide
theorem test_lowByteRead : (after .lowByteRead (at' 0#8 4#8 State.reset)).window.dataOut = 0x08#8 ∧
    (after .lowByteRead (at' 0#8 4#8 State.reset)).window.latch = some ⟨0#8, 5#8, 0x30#8⟩ := by decide
theorem test_registerRead_high :
    (after .registerRead (after .lowByteRead (at' 0#8 4#8 State.reset))).window.dataOut = 0x30#8 := by decide
theorem test_registerRead_age : (after .registerRead (at' 3#8 0x1C#8 State.reset)).window.dataOut = 255#8 := by
  decide
theorem test_unknownCommand :
    (after (.unknownCommand 9#8) (at' 1#8 0#8 State.reset)).window.results[1] = .unknownCommand := by decide
theorem test_clearError :
    (after .clearError (at' 0#8 0#8 (after (.noUnitAccess .read) (at' 8#8 0#8 State.reset)))).window.error.cause =
      .none := by decide

/-! ### Link and cycle -/

theorem test_start : (after .start (at' 1#8 0#8 State.reset)).link.state = .checking ∧
    (after .start (at' 1#8 0#8 State.reset)).line.lde = true := by decide
theorem test_lineCheckComplete : (after .lineCheckComplete (linked .checking State.reset)).link.state = .idle := by
  decide
theorem test_lineCheckFailed : (after (.lineCheckFailed 7) (linked .checking State.reset)).link.state = .fault ∧
    (after (.lineCheckFailed 7) (linked .checking State.reset)).link.highSamples = 7 := by decide
theorem test_run : (after .run (at' 1#8 0#8 (linked .idle State.reset))).sched.timer = .running 20000 ∧
    (after .run (at' 1#8 0#8 (linked .idle State.reset))).line.txn = some { mark with phase := .gap } := by
  decide
theorem test_stop : (after .stop (at' 1#8 0#8 scanning)).link.state = .idle ∧
    (after .stop (at' 1#8 0#8 scanning)).sched.record.status = .stopped := by decide
theorem test_shutdown : (after .shutdown (at' 1#8 0#8 scanning)).link.state = .off ∧
    ((after .shutdown (at' 1#8 0#8 scanning)).moduleAt 0).state = .expected := by decide
theorem test_linkConfigWrite : (after (.linkConfigWrite 9#8) (at' 1#8 6#8 State.reset)).link.replyWindow = 16#8 := by
  decide
theorem test_cycleLengthWrite :
    (after (.cycleLengthWrite 0#8) (at' 2#8 5#8 State.reset)).sched.cycleLength = 0xE2#16 := by decide
theorem test_scanListWrite : (after (.scanListWrite 40#8) (at' 2#8 0x20#8 State.reset)).sched.scanLength = 32#8 := by
  decide
theorem test_searchVacantWrite :
    (after (.searchVacantWrite 2#8) (at' 2#8 9#8 State.reset)).sched.searchVacant = true := by decide
theorem test_cycleTimerExpiry : (after .cycleTimerExpiry scanning).sched.record.status = .overrun ∧
    (after .cycleTimerExpiry scanning).sched.record.cut = 1 := by decide

/-! ### Modules and images -/

theorem test_moduleFieldWrite :
    (after (.moduleFieldWrite 3#8) (at' 3#8 9#8 State.reset)).selModule.inOffset = 0x300#16 := by decide
theorem test_expect : (after .expect (at' 3#8 0#8 State.reset)).selModule.state = .expected := by decide
theorem test_adopt : (after .adopt (at' 3#8 0#8
    (modular { ModuleRecord.reset with state := .found, repMax := 8#8 } State.reset))).selModule.state = .present := by
  decide
theorem test_forget : (after .forget (at' 3#8 0#8 scanning)).selModule.state = .vacant := by decide
theorem test_disable : (after .disable (at' 3#8 0#8 scanning)).selModule.state = .disabled := by decide
theorem test_enable : (after .enable (at' 3#8 0#8 (after .disable (at' 3#8 0#8 scanning)))).selModule.state =
    .expected := by decide
theorem test_stagingWrite : (after (.stagingWrite 7#8) (at' 4#8 0x41#8
    { State.reset with image := { State.reset.image with select := 2, page := 15 } })).image.staging = [(961, 7#8)] := by
  decide
theorem test_followWrite : (after (.followWrite 0#8) (at' 4#8 6#8 State.reset)).image.follow = false := by
  decide
theorem test_commitDeadlineWrite : (after (.commitDeadlineWrite 5#8) (at' 4#8 12#8 State.reset)).image.deadline = 5#8 := by
  decide
theorem test_commit : (after .commit (at' 4#8 0#8 State.reset)).image.commitPending = true := by decide
theorem test_snapshot : (after .snapshot (at' 4#8 0#8 State.reset)).window.results[4] = .wrongState := by decide
theorem test_freeze : (after .freeze (at' 4#8 0#8 State.reset)).image.freeze = true := by decide
theorem test_release : (after .release (after .freeze (at' 4#8 0#8 State.reset))).image.freeze = false := by
  decide

/-! ### Slots, areas and notices -/

theorem test_slotFieldWrite : (after (.slotFieldWrite 6#8) (at' 5#8 14#8 State.reset)).selSlot.host.area = 2 := by
  decide
theorem test_exchangeLimitWrite : (after (.exchangeLimitWrite 0#8) (at' 5#8 4#8 State.reset)).exch.retryLimit = 1#8 := by
  decide
theorem test_post : (after .post (at' 5#8 0#8 (slotted writing .free .none none scanning))).selSlot.state = .queued ∧
    ((after .post (at' 5#8 0#8 (slotted writing .free .none none scanning))).moduleAt 0).waiting = [0] ∧
    ((after .post (at' 5#8 0#8 (slotted writing .free .none none scanning))).areaAt 0).binding =
      some ⟨0, .write⟩ := by decide
theorem test_retire : ((after .retire (at' 5#8 0#8 (held hosted .aborted .closing none scanning))).moduleAt 0).holder =
    .cancelPending 0#16 := by decide
theorem test_restart : (after .restart (at' 5#8 0#8 (slotted hosted .done .closing none scanning))).selSlot.state =
    .queued := by decide
theorem test_abort :
    (after .abort (at' 5#8 0#8 (held hosted .opening .opening (some .openExchange) scanning))).selSlot.state =
      .abortPending := by decide
theorem test_resume : (after .resume (at' 5#8 0#8 (held hosted .aborted .closing none scanning))).selSlot.state =
    .closing := by decide
theorem test_stagedSizeWrite : (after (.stagedSizeWrite 1#8) (at' 6#8 7#8 State.reset)).areas.staged[3] = 1#8 := by
  decide
theorem test_configure : ((after .configure (at' 6#8 0#8
    (after (.stagedSizeWrite 1#8) (at' 6#8 4#8 State.reset)))).areaAt 1).start = 64 := by decide
theorem test_flush : ((after .flush (at' 6#8 0#8 (after (.dataPortWrite 9#8) (at' 6#8 8#8 State.reset)))).areaAt 0).fill =
    0 := by decide
theorem test_dataPortWrite : (after (.dataPortWrite 9#8) (at' 6#8 8#8 State.reset)).areas.memory = [(0, 9#8)] := by
  decide
theorem test_dataPortRead : (after .dataPortRead (after (.dataPortWrite 9#8) (at' 6#8 8#8 State.reset))).window.dataOut =
    9#8 := by decide
theorem test_pop : (after .pop (at' 7#8 0#8 (after .start (at' 1#8 0#8 State.reset)))).notices.queue = [] ∧
    (after .pop (at' 7#8 0#8 (after .start (at' 1#8 0#8 State.reset)))).notices.events = 0x08#8 := by decide
theorem test_clearLost : (after .clearLost (at' 7#8 0#8
    { State.reset with notices := { State.reset.notices with lostCount := 255, overflow := true } })).notices.lostCount =
      0 := by decide
theorem test_clearingRegisterWrite : (after (.clearingRegisterWrite 0xFF#8) (at' 0#8 9#8
    (after .start (at' 1#8 0#8 State.reset)))).notices.events = 0x01#8 := by decide
theorem test_intEnableWrite : (after (.intEnableWrite 0x81#8) (at' 0#8 10#8
    (after .start (at' 1#8 0#8 State.reset)))).notices.intLine = true := by decide
theorem test_attnEnableWrite : (after (.attnEnableWrite 0xFF#8) (at' 0#8 11#8 State.reset)).notices.attnEnable = 0x7F#8 := by
  decide
theorem test_attnPulseStart : (after .attnPulseStart
    { State.reset with notices := { State.reset.notices with attnOwed := 2 } }).notices.attnOwed = 1 := by decide
theorem test_attnPulseEnd : (after .attnPulseEnd
    { State.reset with notices := { State.reset.notices with attnLine := true } }).notices.attnLine = false := by
  decide

/-! ### The line -/

theorem test_gapElapsed : (after .gapElapsed (flying (txn .probe .gap none) scanning)).line.ltx =
    .frame (lineLevels (txn .probe .gap none).sent) ∧
    (after .gapElapsed (flying (txn .probe .gap none) scanning)).sched.timer = .running 19988 := by decide +kernel
theorem test_requestEchoed_mark :
    ((after (.requestEchoed mark.sent) (flying mark marking)).line.txn.map Txn.kind) = some .scan := by
  decide +kernel
theorem test_requestEchoed_mark_othersFirst :
    (after (.requestEchoed mark.sent .othersFirst) (flying mark marking)).line.txn = none ∧
    (after (.requestEchoed mark.sent .othersFirst) (flying mark marking)).sched.stage = .scan ∧
    (after (.requestEchoed mark.sent .othersFirst) (flying mark marking)).decisionDue = true := by decide +kernel
theorem test_requestEchoed_short : after (.requestEchoed [Character.sent 0x1F#8]) (flying mark marking) =
    flying mark marking := by decide +kernel

/-- The first character of a PROBE to module 1 read back with its stop bit low. -/
def badEcho : List Character := [{ data := 1#8, stop := false }]

theorem test_echoMismatch :
    (after (.echoMismatch badEcho) (flying (txn .probe .sending none) scanning)).line.txn =
      some (txn .probe .settling (some .echoFault)) ∧
    (after (.echoMismatch badEcho) (flying (txn .probe .sending none) scanning)).sched.timer = .running 19990 := by
  decide +kernel
theorem test_echoMismatch_equal : after (.echoMismatch [Character.sent 1#8]) (flying (txn .probe .sending none) scanning) =
    flying (txn .probe .sending none) scanning := by decide +kernel
theorem test_character_levels : (Character.sent 0xC1#8).levels =
    [false, true, false, false, false, false, false, true, true, true] := by decide

/-! ### Decisions left due, ports and costs (R46, R164, R188, R21) -/

theorem test_decision_due_taken_when_idle : step due = .next (nextDecision due) ∧
    (nextDecision due).line.txn.map Txn.kind = some .scan := ⟨rfl, by decide⟩
theorem test_expiry_between_scans : (after .cycleTimerExpiry due).sched.record =
    { number := 0#16, scanned := 0, cut := 1, status := .overrun, late := false } ∧
    (after .cycleTimerExpiry due).sched.lateStart = false := by decide
theorem test_ports : portAt false true = .index ∧ (portAt true true).value State.reset = some 0#8 ∧
    portReadRow (portAt true false) (at' 0#8 4#8 State.reset) = some .lowByteRead := by decide
theorem test_costs : markCost State.reset = 92 ∧ scanCost 0 scanning = 12 + 60 + 40 + 80 := by decide

theorem test_replyWindowExpiry : ((after .replyWindowExpiry (flying (txn .scan .awaiting none) scanning)).moduleAt 0).state =
    .suspect := by decide
theorem test_replyStart : (after (.replyStart 40) (flying (txn .scan .awaiting none) scanning)).line.txn =
    some (txn .scan .receiving none) := by decide
theorem test_receiveFault : ((after (.receiveFault [0x80#8, 0#8, 0#8, 0#8] false 0)
    (flying (txn .scan .receiving none) scanning)).line.txn.map Txn.settling) = some (some .corrupt) := by decide
theorem test_quietLimitExpiry : ((after (.quietLimitExpiry [0#8] 0)
    (flying (txn .scan .receiving none) scanning)).moduleAt 0).failCount = 1 := by decide
theorem test_settlingEnd : (after (.settlingEnd 20)
    (flying (txn .scan .settling (some .echoFault)) scanning)).line.echoFaults = 1 := by decide
theorem test_replyReceived :
    (after (.replyReceived scanReply 0) (flying (txn .scan .receiving none) scanning)).image.live = [(0, 0x55#8)] ∧
    ((after (.replyReceived scanReply 0) (flying (txn .scan .receiving none) scanning)).moduleAt 0).status = 0x80#8 := by
  decide +kernel

/-! ### States and operands that meet the hypotheses of each obligation -/

theorem test_witness_StepTakesFrontCommand :
    ({ State.reset with pending := [.run] } : State).pending = .run :: [] ∧ State.reset.pending = [] ∧
    ¬ (State.reset.link.state = .running) ∧ due.pending = [] ∧ due.link.state = .running ∧ due.line.txn = none ∧
    due.sched.stage = .scan ∧ due.regionsInside = true ∧ due.areasInside = true := by decide

theorem test_witness_CommandsLeaveQueue : exec .powerOnReset State.reset = .next State.reset := rfl

theorem test_witness_PlatformResetHoldsThePart : Instr.start ≠ .powerOnReset ∧ Instr.start ≠ .platformResetRelease := by
  decide

theorem test_witness_PortsAndEmptySelections : (at' 8#8 0#8 State.reset).window.prst = false ∧
    8 ≤ (at' 8#8 0#8 State.reset).window.unit.toNat ∧ (at' 0#8 3#8 State.reset).window.prst = false ∧
    (at' 0#8 3#8 State.reset).selection = .noIndex := by decide

theorem test_witness_RegisterWritesTakenOrRefused : (at' 7#8 1#8 State.reset).atReg (.result .notices) ∧
    (at' 0#8 4#8 State.reset).atReg (.lo .partCode) ∧ (Reg.lo .partCode).writeClass 0 = .readOnly ∧
    (at' 3#8 2#8 State.reset).atReg (.subject .modules) ∧ (1#8).toNat = moduleAddress 0 ∧
    (30#8).toNat = moduleAddress 29 ∧ (0#8).toNat = 0 ∧ 30 < (31#8).toNat ∧
    (at' 5#8 2#8 State.reset).atReg (.subject .slots) ∧ (7#8).toNat = (7 : Fin 8).val ∧ 7 < (8#8).toNat ∧
    (at' 6#8 2#8 State.reset).atReg (.subject .areas) ∧ (3#8).toNat = (3 : Fin 4).val ∧ 3 < (4#8).toNat ∧
    (at' 4#8 4#8 State.reset).atReg (.byte .imageSelect) ∧ (255#8).toNat % 4 = (3 : Fin 4).val ∧
    (at' 4#8 5#8 State.reset).atReg (.byte .page) ∧ (255#8).toNat % 16 = (15 : Fin 16).val := by
  unfold State.atReg
  decide

theorem test_witness_RegisterWritesTakenOrRefused_readOnly : ∀ u, Reg.lo .partCode ≠ .result u := by
  intro u; simp

theorem test_witness_RegisterReadsReturnTheField : (at' 1#8 4#8 State.reset).atReg (.byte .linkState) ∧
    Reg.byte .linkState ≠ .dataPort ∧ (at' 0#8 4#8 State.reset).atReg (.lo .partCode) ∧
    (after .lowByteRead (at' 0#8 4#8 State.reset)).window = (after .lowByteRead (at' 0#8 4#8 scanning)).window ∧
    (at' 0#8 5#8 State.reset).atReg (.hi .partCode) ∧ (at' 0#8 5#8 State.reset).window.latch = none := by
  unfold State.atReg
  decide

theorem test_witness_RegisterReadsReturnTheField_byte :
    (∀ f, Reg.byte .linkState ≠ .lo f) ∧ (∀ f, Reg.byte .linkState ≠ .hi f) := by
  constructor <;> intro f <;> simp

theorem test_witness_PortsRegistersAndMarks : 8 ≤ (8#8 : Byte).toNat ∧ Port.unit ≠ .data ∧
    (regAt .global 4).map (Reg.writeClass 0) = some .readOnly ∧ (regAt .image 0x40).map (Reg.writeClass 2) ≠ some .readOnly ∧
    regAt .global 3 = none := by decide

theorem test_witness_RegisterValuesAndCodes : State.reset.notices.queue = [] ∧
    (after .start (at' 1#8 0#8 State.reset)).notices.queue =
      [{ body := .linkState .off .checking .command, cycle := 0#16 }] ∧
    (after .start (at' 1#8 0#8 State.reset)).byteAt .notices 8 = some 6#8 ∧ State.reset.byteAt .global 4 = some 0x08#8 ∧
    State.reset.byteAt .global 5 = some 0x30#8 := by decide

theorem test_witness_EveryDataAccessMovesIndex : State.reset.window.prst = false ∧ State.reset.areasInside = true ∧
    unitOf 8#8 = none ∧ unitOf 4#8 = some .image ∧ regAt .image 0x40 ≠ none ∧ regAt .image 0x80 = none ∧
    dataWriteRow (at' 2#8 0x5F#8 State.reset) 1#8 = .scanListWrite 1#8 ∧
    dataWriteRow (at' 4#8 0x40#8 State.reset) 1#8 = .registerWrite 1#8 ∧
    dataReadRow (at' 6#8 8#8 State.reset) = .dataPortRead ∧ dataReadRow (at' 5#8 0x3F#8 State.reset) = .lowByteRead := by
  decide

theorem test_witness_StartBeginsLineCheck : (at' 1#8 0#8 State.reset).atCommand .link = true ∧
    (at' 1#8 0#8 State.reset).link.state = .off ∧ (at' 1#8 0#8 scanning).atCommand .link = true ∧
    (at' 1#8 0#8 scanning).link.state ≠ .off := by decide

theorem test_witness_LineCheckEnds : (linked .checking State.reset).link.state = .checking ∧ 2047 < 2048 := by
  decide

theorem test_witness_RunStartsFirstCycle : (at' 1#8 0#8 (linked .idle State.reset)).atCommand .link = true ∧
    (at' 1#8 0#8 (linked .idle State.reset)).link.state = .idle ∧ (at' 1#8 0#8 scanning).atCommand .link = true ∧
    (at' 1#8 0#8 scanning).link.state ≠ .idle := by decide

theorem test_witness_StopHaltsCycling : (at' 1#8 0#8 scanning).atCommand .link = true ∧
    (at' 1#8 0#8 scanning).link.state = .running ∧ (at' 1#8 0#8 scanning).line.txn = none ∧
    (at' 1#8 0#8 (flying mark scanning)).atCommand .link = true ∧
    (at' 1#8 0#8 (flying mark scanning)).link.state = .running ∧
    (at' 1#8 0#8 (flying mark scanning)).line.txn ≠ none ∧ (at' 1#8 0#8 State.reset).atCommand .link = true ∧
    (at' 1#8 0#8 State.reset).link.state ≠ .running ∧ scanning.sched.stage = .scan ∧
    acyclic.sched.stage ≠ .mark ∧ acyclic.sched.stage ≠ .scan := by decide

theorem test_witness_ShutdownTakesLinkOff : (at' 1#8 0#8 scanning).atCommand .link = true ∧
    (at' 1#8 0#8 scanning).link.state ≠ .off ∧ (at' 1#8 0#8 scanning).line.txn = none ∧
    (at' 1#8 0#8 (flying mark scanning)).atCommand .link = true ∧
    (at' 1#8 0#8 (flying mark scanning)).link.state ≠ .off ∧ (at' 1#8 0#8 (flying mark scanning)).line.txn ≠ none ∧
    (at' 1#8 0#8 State.reset).atCommand .link = true ∧ (at' 1#8 0#8 State.reset).link.state = .off := by
  decide

theorem test_witness_GuardedFieldWrites_config : State.reset.link.state = .off ∧
    (at' 1#8 5#8 State.reset).atReg (.byte .bitRate) ∧ (at' 1#8 6#8 State.reset).atReg (.byte .replyWindow) ∧
    (at' 1#8 7#8 State.reset).atReg (.byte .threshold) ∧ (at' 1#8 7#8 scanning).link.state ≠ .off ∧
    (at' 1#8 7#8 scanning).atReg (.byte .threshold) ∧ (Reg.byte .threshold).writeClass 0 = .linkConfig := by
  unfold State.atReg
  decide

theorem test_witness_GuardedFieldWrites_cycle : State.reset.link.state ≠ .running ∧ State.reset.link.state ≠ .stopping ∧
    (at' 2#8 4#8 State.reset).atReg (.lo .cycleLength) ∧ (at' 2#8 5#8 State.reset).atReg (.hi .cycleLength) ∧
    (at' 2#8 0x20#8 State.reset).atReg (.byte .scanLength) ∧ (at' 2#8 0x40#8 State.reset).atReg (.scanEntry 0) ∧
    (at' 2#8 0x5F#8 State.reset).atReg (.scanEntry 31) ∧ (at' 2#8 9#8 State.reset).atReg (.byte .searchVacant) := by
  unfold State.atReg
  decide

theorem test_witness_GuardedFieldWrites_refused : scanning.link.state = .running ∧
    (linked .stopping scanning).link.state = .stopping ∧ (at' 2#8 4#8 scanning).atReg (.lo .cycleLength) ∧
    (Reg.lo .cycleLength).writeClass 0 = .cycleLength ∧ (at' 2#8 0x5F#8 scanning).atReg (.scanEntry 31) ∧
    (Reg.scanEntry 31).writeClass 0 = .scanList ∧ (at' 2#8 9#8 scanning).atReg (.byte .searchVacant) ∧
    (Reg.byte .searchVacant).writeClass 0 = .searchVacant := by
  unfold State.atReg
  decide

/-- An image unit with a deadline of 2, a supervision count, and valid outputs or not. -/
def supervised (count : Nat) (valid : Bool) : ImageUnit :=
  { State.reset.image with deadline := 2#8, supervision := count, outputsValid := valid }

theorem test_witness_CycleStartSteps :
    ({ State.reset with image := { State.reset.image with commitPending := true } } : State).image.commitPending = true ∧
    State.reset.image.commitPending = false ∧ State.reset.image.deadline = 0#8 ∧
    (supervised 0 true).deadline ≠ 0#8 ∧ min 255 ((supervised 0 true).supervision + 1) < (supervised 0 true).deadline.toNat ∧
    (supervised 255 false).outputsValid = false ∧
    (supervised 1 true).deadline.toNat ≤ min 255 ((supervised 1 true).supervision + 1) ∧
    (supervised 1 true).outputsValid = true := by decide

theorem test_witness_CycleEndSteps : State.reset.image.freeze = false ∧ State.reset.image.follow = true ∧
    ({ State.reset.image with follow := false, snapshotPending := true } : ImageUnit).snapshotPending = true ∧
    ({ State.reset.image with freeze := true } : ImageUnit).freeze = true ∧
    ({ State.reset.image with follow := false } : ImageUnit).follow = false ∧
    State.reset.image.snapshotPending = false ∧ CycleStatus.complete ≠ .overrun := by decide

theorem test_witness_TimerExpiryByStage : scanning.sched.timer = .running 20000 ∧ scanning.link.state = .running ∧
    scanning.line.txn = none ∧ scanning.sched.stage = .scan ∧ acyclic.sched.timer = .running 20000 ∧
    acyclic.link.state = .running ∧ acyclic.line.txn = none ∧ acyclic.sched.stage = .acyclic ∧
    (flying mark scanning).sched.timer = .running 20000 ∧ (flying mark scanning).link.state = .running ∧
    (flying mark scanning).line.txn ≠ none ∧ (linked .stopping scanning).sched.timer = .running 20000 ∧
    (linked .stopping scanning).link.state = .stopping := by decide

theorem test_witness_WalkScansNextModuleInService : scanning.sched.scanPos ≤ 0 ∧ 0 < scanning.sched.scanLength.toNat ∧
    (scanning.scanEntry 0).toNat = moduleAddress 0 ∧ (scanning.moduleAt 0).state.inService = true := by decide

theorem test_witness_WalkScansNextModuleInService_first : ∀ q, scanning.sched.scanPos ≤ q → q < 0 → ∀ j : Fin 30,
    (scanning.scanEntry q).toNat = moduleAddress j → (scanning.moduleAt j).state.inService = false :=
  fun q _ h => absurd h (Nat.not_lt_zero q)

theorem test_witness_WalkScansNextModuleInService_none : ∀ q, State.reset.sched.scanPos ≤ q →
    q < State.reset.sched.scanLength.toNat → ∀ j : Fin 30,
    (State.reset.scanEntry q).toNat = moduleAddress j → (State.reset.moduleAt j).state.inService = false :=
  fun q _ h => absurd h (Nat.not_lt_zero q)

/-- A cancel owed at module 1. -/
def owed : State := acyclic.setModule 0 { inService with holder := .cancelPending 0x1234#16 }

/-- Module 1's address in the cancel-deferred set. -/
def deferred (s : State) : State := { s with sched := { s.sched with cancelDeferred := [0] } }

/-- Cancels owed at modules 1 and 2, that of module 1 deferred in this cycle. -/
def owedTwice : State :=
  deferred (owed.setModule 1 { inService with holder := .cancelPending 0x5678#16 })

/-- A condition on the pending cancels of a state, by the holder's code. -/
theorem test_pending_cancels {s : State} {P : Fin 30 → Prop}
    (h : ∀ j : Fin 30, (s.moduleAt j).holder.code = 2#8 → (s.moduleAt j).state.inService = true → P j) (j : Fin 30)
    (tag : Half) (hj : (s.moduleAt j).holder = .cancelPending tag) (hs : (s.moduleAt j).state.inService = true) : P j :=
  h j (by rw [hj]; rfl) hs

theorem test_witness_AcyclicPickTakesCancelThenQueuedHead_cancel :
    (owedTwice.moduleAt 1).holder = .cancelPending 0x5678#16 ∧ (owedTwice.moduleAt 1).state.inService = true ∧
    1 ∉ owedTwice.sched.cancelDeferred ∧
    (∀ (j : Fin 30) (other : Half), j < 1 → (owedTwice.moduleAt j).holder = .cancelPending other →
      (owedTwice.moduleAt j).state.inService = true → j ∈ owedTwice.sched.cancelDeferred) ∧
    162 + owedTwice.line.replyWindow.toNat ≤ owedTwice.budget ∧
    (late owedTwice).budget < 162 + (late owedTwice).line.replyWindow.toNat :=
  ⟨by decide, by decide, by decide,
    fun j other hj hh hs => test_pending_cancels (P := fun j => j < 1 → j ∈ owedTwice.sched.cancelDeferred) (by decide)
      j other hh hs hj, by decide, by decide⟩

/-- Slot 0 alone, QUEUED at the head of module 1's list. -/
def queued : State :=
  (slotted hosted .queued .none none acyclic).setModule 0 { inService with waiting := [0] }

/-- Slot 0 alone, QUEUED at the head of module 2's list; the cancel owed at module 1 is deferred. -/
def queuedPast : State :=
  deferred ((slotted { hosted with moduleAddr := 2#8 } .queued .none none owed).setModule 1
    { inService with waiting := [0] })

theorem test_witness_AcyclicPickTakesCancelThenQueuedHead_cancels : ∀ (j : Fin 30) (tag : Half),
    (queuedPast.moduleAt j).holder = .cancelPending tag → (queuedPast.moduleAt j).state.inService = true →
      j ∈ queuedPast.sched.cancelDeferred :=
  test_pending_cancels (by decide)

theorem test_witness_AcyclicPickTakesCancelThenQueuedHead_queued :
    (queuedPast.moduleAt 0).holder = .cancelPending 0x1234#16 ∧
    (∀ m, m ≠ 0 → (queuedPast.slotAt m).state = .free ∨ (queuedPast.slotAt m).state.ended = true) ∧
    (queuedPast.slotAt 0).state = .queued ∧ (queuedPast.slotAt 0).host.moduleAddr.toNat = moduleAddress 1 ∧
    (queuedPast.moduleAt 1).waiting = 0 :: [] ∧ (queuedPast.moduleAt 1).state.inService = true ∧
    (queuedPast.moduleAt 1).holder = .none ∧
    192 + 10 * (queuedPast.slotAt 0).host.blockLength.toNat + queuedPast.line.replyWindow.toNat ≤ queuedPast.budget ∧
    (late queuedPast).budget <
      192 + 10 * ((late queuedPast).slotAt 0).host.blockLength.toNat + (late queuedPast).line.replyWindow.toNat := by
  decide

/-- Slot 1 in TRANSFERRING with its area empty, slot 2 in CLOSING, the pointer at slot 0: slot 2 is the first eligible;
the cancel owed at module 3 is deferred. -/
def robin : State :=
  let s := (held writing .transferring .transferring none acyclic).setSlot 0 Slot.reset
  let s := s.setSlot 1 { host := writing, state := .transferring, run := { SlotRun.cleared with
    recordedPhase := .transferring }, inFlight := none }
  let s := s.setSlot 2 { host := { hosted with moduleAddr := 2#8 }, state := .closing, run := { SlotRun.cleared with
    recordedPhase := .closing }, inFlight := none }
  let s := s.setModule 0 { inService with repMax := 8#8, holder := .slot 1 }
  let s := s.setModule 2 { inService with holder := .cancelPending 0x1234#16 }
  { s with sched := { s.sched with rrPtr := 0, cancelDeferred := [2] } }

theorem test_witness_RoundRobinPicksAndStartsASlot_cancels : ∀ (j : Fin 30) (tag : Half),
    (robin.moduleAt j).holder = .cancelPending tag → (robin.moduleAt j).state.inService = true →
      j ∈ robin.sched.cancelDeferred :=
  test_pending_cancels (by decide)

theorem test_witness_RoundRobinPicksAndStartsASlot : slotEligible 2 robin = true ∧
    (∀ m : Fin 8, (m - robin.sched.rrPtr - 1).val < ((2 : Fin 8) - robin.sched.rrPtr - 1).val →
      slotEligible m robin = false) ∧
    (robin.slotAt 2).host.moduleAddr.toNat = moduleAddress 1 ∧ robin.line.replyWindow.toNat + 212 ≤ robin.budget ∧
    (late robin).budget < robin.line.replyWindow.toNat + 212 ∧ slotEligible 2 (late robin) = true ∧
    (∀ n, slotEligible n acyclic = false) ∧ writing.kind = 1#8 ∧ writing.moduleAddr.toNat = moduleAddress 0 ∧
    ((acyclicPick robin).slotAt 1).run.waitArea = true := by decide

/-- Module 2 EXPECTED and the rotation pointer at module 1; every other module vacant or in service. -/
def probing : State :=
  { acyclic.setModule 1 { ModuleRecord.reset with state := .expected } with
    sched := { acyclic.sched with probePtr := 0 } }

theorem test_witness_ProbeStageTakesNextCandidate : (probing.moduleAt 1).state = .expected ∧
    (∀ j : Fin 30, (j - probing.sched.probePtr - 1).val < ((1 : Fin 30) - probing.sched.probePtr - 1).val →
      ¬ ((probing.moduleAt j).state = .expected ∨ (probing.moduleAt j).state = .lost ∨
        ((probing.moduleAt j).state = .vacant ∧ probing.sched.searchVacant = true))) ∧
    182 + probing.line.replyWindow.toNat ≤ probing.budget ∧
    (late probing).budget < 182 + (late probing).line.replyWindow.toNat ∧
    (∀ k : Fin 30, ¬ ((acyclic.moduleAt k).state = .expected ∨ (acyclic.moduleAt k).state = .lost ∨
        ((acyclic.moduleAt k).state = .vacant ∧ acyclic.sched.searchVacant = true))) := by decide

theorem test_witness_GuardedFieldWrites_module : State.reset.selModule.state ≠ .present ∧
    State.reset.selModule.state ≠ .suspect ∧ (at' 3#8 6#8 State.reset).atReg (.lo .expectedType) ∧
    (at' 3#8 7#8 State.reset).atReg (.hi .expectedType) ∧ (at' 3#8 8#8 State.reset).atReg (.lo .inOffset) ∧
    (at' 3#8 9#8 State.reset).atReg (.hi .inOffset) ∧ (at' 3#8 10#8 State.reset).atReg (.byte .inLength) ∧
    (at' 3#8 11#8 State.reset).atReg (.lo .outOffset) ∧ (at' 3#8 12#8 State.reset).atReg (.hi .outOffset) ∧
    (at' 3#8 13#8 State.reset).atReg (.byte .outLength) ∧ (at' 3#8 14#8 State.reset).atReg (.byte .watchMask) ∧
    (at' 3#8 14#8 scanning).selModule.state = .present ∧ (at' 3#8 14#8 scanning).atReg (.byte .watchMask) ∧
    (Reg.byte .watchMask).writeClass 0 = .moduleField := by
  unfold State.atReg
  decide

/-- Slot 0 in OPENING holds module 1 and has its OPEN in flight; the module is one failure from its threshold. -/
def opening : State :=
  let s := (held hosted .opening .opening (some .openExchange) acyclic).setModule 0
    { inService with state := .suspect, failCount := 2, holder := .slot 0 }
  { flying (txn .openExchange .awaiting none) s with sched := { s.sched with forSlot := some 0 } }

theorem test_witness_OutcomesRoutedToOwners : mark.kind = .mark ∧ mark.address = 31 ∧
    (txn .scan .awaiting none).kind = .scan ∧ (txn .probe .awaiting none).kind = .probe ∧
    (txn .cancel .awaiting none).kind = .cancel ∧ (txn .openExchange .awaiting none).address = moduleAddress 0 ∧
    (txn .openExchange .awaiting none).kind = .openExchange ∧ opening.sched.forSlot = some 0 ∧
    (opening.moduleAt 0).state.inService = true ∧
    opening.link.threshold.toNat ≤ (opening.moduleAt 0).failCount + 1 ∧ (opening.moduleAt 0).holder = .slot 0 ∧
    (opening.slotAt 0).takesOutcome = true ∧ (opening.slotAt 0).inFlight ≠ none ∧
    ((held hosted .opening .opening (some .openExchange) acyclic).moduleAt 0).failCount + 1 <
      acyclic.link.threshold.toNat ∧ (State.reset.moduleAt 0).state.inService = false ∧
    (txn .scan .awaiting none).address = moduleAddress 0 := by decide

theorem test_witness_TransactionEndByStage : 2 ≤ (thirdFault .running).line.echoFaults ∧
    ¬ (2 ≤ opening.line.echoFaults) ∧ opening.link.state = .running ∧
    (routeOutcome (txn .openExchange .awaiting none) .timeout opening).sched.timer = .running 20000 ∧
    (routeOutcome (txn .openExchange .awaiting none) .timeout opening).sched.stage = .acyclic ∧
    (routeOutcome (txn .openExchange .awaiting none) .timeout (late opening)).sched.timer = .expired ∧
    (routeOutcome (txn .scan .awaiting none) .timeout scanning).sched.stage = .scan ∧
    (routeOutcome (txn .scan .awaiting none) .timeout (late scanning)).sched.timer = .expired ∧
    (linked .stopping opening).link.state = .stopping := by decide

theorem test_witness_ModuleCommandsTakenInOrder : (at' 3#8 0#8 State.reset).atCommand .modules = true := by
  decide

/-- Module 1 in a state. -/
def moduleIn (st : ModuleState) : State := State.reset.setModule 0 { ModuleRecord.reset with state := st }

theorem test_witness_IdentificationJudgesIdent : ((moduleIn .expected).moduleAt 0).state = .expected ∧
    ((moduleIn .lost).moduleAt 0).state = .lost ∧
    (let i : Ident := { typeCode := 0#16, inLength := 0#8, outLength := 0#8, maxPiece := 64#8 }
     let m := (moduleIn .expected).moduleAt 0
     i.inLength.toNat ≤ 32 ∧ i.outLength.toNat ≤ 32 ∧ 1 ≤ i.maxPiece.toNat ∧ i.maxPiece.toNat ≤ 64 ∧
     i.typeCode = m.expectedType ∧ i.inLength = m.inLength ∧ i.outLength = m.outLength ∧
     m.inOffset.toNat + m.inLength.toNat ≤ 1024 ∧ m.outOffset.toNat + m.outLength.toNat ≤ 1024) ∧
    ¬ (1 ≤ (0#8 : Byte).toNat) ∧ ((moduleIn .vacant).moduleAt 0).state = .vacant ∧
    ({ (moduleIn .vacant).sched with searchVacant := true } : Scheduler).searchVacant = true ∧
    (moduleIn .vacant).sched.searchVacant = false ∧ ((moduleIn .disabled).moduleAt 0).state = .disabled := by
  decide

/-- A SCAN of module 1 awaiting its reply. -/
def silent : State := flying (txn .scan .awaiting none) scanning

theorem test_witness_SilentScanCountsOrLosesTheModule : silent.line.txn = some (txn .scan .awaiting none) ∧
    (txn .scan .awaiting none).phase = .awaiting ∧ (txn .scan .awaiting none).kind = .scan ∧
    (txn .scan .awaiting none).address = moduleAddress 0 ∧ silent.link.state = .running ∧
    (silent.moduleAt 0).state.inService = true ∧ silent.regionsInside = true ∧ silent.areasInside = true ∧
    (silent.moduleAt 0).failCount + 1 < silent.link.threshold.toNat ∧
    silent.link.threshold.toNat ≤
      ((silent.setModule 0 { inService with state := .suspect, failCount := 2 }).moduleAt 0).failCount + 1 := by
  decide

/-- A SCAN of module 1 whose reply is coming in. -/
def answering : State := flying (txn .scan .receiving none) scanning

theorem test_witness_GoodScanReplyLands : answering.line.txn = some (txn .scan .receiving none) ∧
    (txn .scan .receiving none).phase = .receiving ∧ (txn .scan .receiving none).kind = .scan ∧
    (txn .scan .receiving none).address = moduleAddress 0 ∧ answering.link.state = .running ∧
    (answering.moduleAt 0).state.inService = true ∧ answering.regionsInside = true ∧ answering.areasInside = true ∧
    answering.image.live.wf ∧ replyComplete scanReply = true ∧
    classifyReply (txn .scan .receiving none) scanReply =
      .reply (some { kind := .scanReply, payload := [0x80#8, 0x55#8], seqBit := false }) := by decide +kernel

/-- A cancel owed at module 1, one HOLD from the hold limit and one failure from the threshold. -/
def strained : State :=
  let s := owed.setModule 0 { owed.moduleAt 0 with state := .suspect, failCount := 2 }
  { s with exch := { s.exch with holdLimit := 1#8 } }

theorem test_witness_CancelOutcomeSettlesTheHolder : (owed.moduleAt 0).state.inService = true ∧
    (owed.moduleAt 0).holder = .cancelPending 0x1234#16 ∧ 0 ∉ owed.sched.cancelDeferred ∧
    0 ∈ (deferred owed).sched.cancelDeferred ∧
    min 255 ((owed.moduleAt 0).cancelHold + 1) < owed.exch.holdLimit.toNat ∧
    (owed.moduleAt 0).failCount + 1 < owed.link.threshold.toNat ∧
    (strained.moduleAt 0).state.inService = true ∧ (strained.moduleAt 0).holder = .cancelPending 0x1234#16 ∧
    strained.exch.holdLimit ≠ 0#8 ∧
    strained.exch.holdLimit.toNat ≤ min 255 ((strained.moduleAt 0).cancelHold + 1) ∧
    strained.link.threshold.toNat ≤ (strained.moduleAt 0).failCount + 1 := by
  decide

theorem test_witness_GuardedFieldWrites_slot : State.reset.selSlot.state = .free ∧
    (at' 5#8 8#8 State.reset).atReg (.byte .moduleAddr) ∧ (at' 5#8 9#8 State.reset).atReg (.byte .kind) ∧
    (at' 5#8 10#8 State.reset).atReg (.lo .tag) ∧ (at' 5#8 11#8 State.reset).atReg (.hi .tag) ∧
    (at' 5#8 12#8 State.reset).atReg (.lo .declared) ∧ (at' 5#8 13#8 State.reset).atReg (.hi .declared) ∧
    (at' 5#8 14#8 State.reset).atReg (.byte .area) ∧ (at' 5#8 15#8 State.reset).atReg (.byte .pieceLimit) ∧
    (at' 5#8 16#8 State.reset).atReg (.byte .blockLength) ∧ (at' 5#8 0x20#8 State.reset).atReg (.blockByte 0) ∧
    (at' 5#8 0x2F#8 State.reset).atReg (.blockByte 15) ∧ (at' 5#8 4#8 State.reset).atReg (.byte .retryLimit) ∧
    (at' 5#8 5#8 State.reset).atReg (.byte .holdLimit) := by
  unfold State.atReg
  decide

theorem test_witness_GuardedFieldWrites_slot_refused : (at' 5#8 9#8 queued).selSlot.state ≠ .free ∧
    (at' 5#8 9#8 queued).atReg (.byte .kind) ∧ (Reg.byte .kind).writeClass 0 = .slotField ∧
    (at' 5#8 5#8 queued).link.state = .running ∧ (at' 5#8 5#8 queued).atReg (.byte .holdLimit) ∧
    (Reg.byte .holdLimit).writeClass 0 = .exchangeLimit := by
  unfold State.atReg
  decide

/-- Slot 0 FREE with host fields, COMMAND of SLOTS selected. -/
def posting (h : SlotHost) (s : State) : State := at' 5#8 0#8 (slotted h .free .none none s)

theorem test_witness_PostChecksThenQueues : (posting writing scanning).atCommand .slots = true ∧
    (posting writing scanning).selSlot.state = .free ∧ 1 ≤ writing.moduleAddr.toNat ∧ writing.moduleAddr.toNat ≤ 30 ∧
    writing.kind.toNat ≤ 2 ∧ (writing.kind = 0#8 ↔ writing.declared = 0#16) ∧ 1 ≤ writing.pieceLimit.toNat ∧
    writing.pieceLimit.toNat ≤ 64 ∧ 4 ≤ writing.blockLength.toNat ∧ writing.blockLength.toNat ≤ 16 ∧
    writing.moduleAddr.toNat = moduleAddress 0 ∧ ((posting writing scanning).moduleAt 0).state.takesSlots = true ∧
    writing.kind ≠ 0#8 ∧ ((posting writing scanning).areaAt 0).binding = none ∧
    ((posting writing scanning).areaAt 0).size ≠ 0 := by decide

theorem test_witness_PostChecksThenQueues_refused : (at' 5#8 0#8 queued).atCommand .slots = true ∧
    (at' 5#8 0#8 queued).selSlot.state ≠ .free ∧ ¬ (1 ≤ SlotHost.reset.moduleAddr.toNat) ∧
    ((posting writing State.reset).moduleAt 0).state.takesSlots = false ∧
    ((scanning.setArea 0 { AreaRecord.reset 0 with binding := some ⟨1, .read⟩ }).areaAt 0).binding ≠ none ∧
    ((scanning.setArea 0 { AreaRecord.reset 0 with size := 0 }).areaAt 0).size = 0 ∧ hosted.kind = 0#8 := by
  decide

theorem test_witness_EndedSlotRetiredOrRestarted :
    (at' 5#8 0#8 (held writing .aborted .closing none scanning)).atCommand .slots = true ∧
    (at' 5#8 0#8 (held writing .aborted .closing none scanning)).selSlot.state.ended = true ∧
    (at' 5#8 0#8 (held writing .aborted .closing none scanning)).selSlot.run.recordedPhase ≠ .none ∧
    ((held writing .aborted .closing none scanning).moduleAt 0).holder = .slot 0 ∧
    writing.moduleAddr.toNat = moduleAddress 0 ∧ writing.kind = 1#8 ∧ hosted.kind ≠ 1#8 ∧ hosted.kind ≠ 2#8 ∧
    (slotted hosted .done .closing none scanning).selSlot.state = .done ∧
    (slotted hosted .aborted .none none scanning).selSlot.run.recordedPhase = .none ∧
    (scanning.moduleAt 0).state.takesSlots = true ∧ (State.reset.moduleAt 0).state.takesSlots = false ∧
    queued.selSlot.state.ended = false := by decide

theorem test_witness_AbortBySlotState : (at' 5#8 0#8 queued).atCommand .slots = true ∧
    (at' 5#8 0#8 queued).selSlot.state = .queued ∧
    (at' 5#8 0#8 queued).selSlot.host.moduleAddr.toNat = moduleAddress 0 ∧ Phase.closing ≠ .none ∧
    (held hosted .closing .closing none scanning).selSlot.state = Phase.closing.state ∧
    (held hosted .closing .closing none scanning).selSlot.inFlight = none ∧
    (held hosted .opening .opening (some .openExchange) scanning).selSlot.state.inPhase = true ∧
    (held hosted .opening .opening (some .openExchange) scanning).selSlot.inFlight ≠ none ∧
    State.reset.selSlot.state ≠ .queued ∧ State.reset.selSlot.state.inPhase = false := by decide

theorem test_witness_ResumeByRecordedPhase :
    (at' 5#8 0#8 (slotted hosted .aborted .none none scanning)).atCommand .slots = true ∧
    (slotted hosted .aborted .none none scanning).selSlot.state = .aborted ∧
    (slotted hosted .aborted .none none scanning).selSlot.run.recordedPhase = .none ∧
    (slotted hosted .aborted .none none scanning).selSlot.host.moduleAddr.toNat = moduleAddress 0 ∧
    (held hosted .aborted .opening none scanning).selSlot.run.recordedPhase = .opening ∧
    State.reset.selSlot.state ≠ .aborted ∧ (scanning.moduleAt 0).state.takesSlots = true ∧
    (State.reset.moduleAt 0).state.takesSlots = false := by decide

theorem test_witness_SlotAdvancesOnAccept :
    ((held writing .opening .opening (some .openExchange) scanning).slotAt 0).state = .opening ∧
    ((held writing .opening .opening (some .openExchange) scanning).slotAt 0).inFlight = some .openExchange ∧
    ((held writing .transferring .transferring (some (.put 4 false)) scanning).slotAt 0).state = .transferring ∧
    ((held writing .transferring .transferring (some (.put 4 false)) scanning).slotAt 0).run.recordedPhase =
      .transferring ∧
    ((held writing .transferring .transferring (some (.put 4 false)) scanning).slotAt 0).inFlight =
      some (.put 4 false) ∧
    ((held writing .transferring .transferring (some (.fetch 1 true)) scanning).slotAt 0).inFlight =
      some (.fetch 1 true) ∧ ([0#8] : List Byte).length ≤ 1 := by decide

theorem test_witness_SlotRepeatsAfterHoldOrError :
    ((held hosted .closing .closing (some .close) scanning).slotAt 0).state.inPhase = true ∧
    ((held hosted .closing .closing (some .close) scanning).slotAt 0).inFlight = some .close ∧
    min 255 (((held hosted .closing .closing (some .close) scanning).slotAt 0).run.holdCount + 1) <
      scanning.exch.holdLimit.toNat ∧
    ((held hosted .closing .closing (some .close) scanning).slotAt 0).run.errCount + 1 <
      scanning.exch.retryLimit.toNat := by decide

/-- Slot 0 in CLOSING holding module 1, one more error or hold from its limits. -/
def spent : State :=
  let s := held hosted .closing .closing (some .close) scanning
  { s with exch := { s.exch with retryLimit := 1#8, holdLimit := 1#8 } }

theorem test_witness_SlotEndingsSettleTheHolder : (spent.slotAt 0).state.inPhase = true ∧
    (spent.slotAt 0).inFlight = some .close ∧ (spent.slotAt 0).host.moduleAddr.toNat = moduleAddress 0 ∧
    (spent.moduleAt 0).holder = .slot 0 ∧ spent.exch.holdLimit ≠ 0#8 ∧
    spent.exch.holdLimit.toNat ≤ min 255 ((spent.slotAt 0).run.holdCount + 1) ∧
    spent.exch.retryLimit.toNat ≤ (spent.slotAt 0).run.errCount + 1 ∧
    ((held hosted .transferring .transferring (some (.fetch 1 false)) scanning).slotAt 0).inFlight =
      some (.fetch 1 false) ∧ 1 < ([0#8, 0#8] : List Byte).length ∧ ([0#8] : List Byte).length ≤ 1 ∧
    ¬ (([] : List Byte).length = 8) := by decide

/-- Slot 0 in ABORT_PENDING holds module 1 and has its OPEN in flight. -/
def aborting : State :=
  opening.updSlot 0 (fun x => { x with state := .abortPending, run := { x.run with abortRequested := true } })

theorem test_witness_AbortPendingResolved : (aborting.slotAt 0).state = .abortPending ∧
    (aborting.slotAt 0).run.recordedPhase = .opening ∧ Phase.opening ≠ .none ∧
    (aborting.slotAt 0).inFlight = some .openExchange ∧ (aborting.slotAt 0).run.abortRequested = true ∧
    min 255 ((aborting.slotAt 0).run.holdCount + 1) < aborting.exch.holdLimit.toNat ∧
    (aborting.slotAt 0).run.errCount + 1 < aborting.exch.retryLimit.toNat ∧
    ((takeSlotOutcome 0 .timeout (aborting.updSlot 0 (fun x => { x with state := .opening }))).slotAt 0).state.ended =
      false ∧
    ((takeSlotOutcome 0 (.reply (some { kind := .refuse, payload := [1#8], seqBit := false }))
      (aborting.updSlot 0 (fun x => { x with state := .opening }))).slotAt 0).state.ended = true := by decide

theorem test_witness_AreasStagedConfiguredFlushed : (at' 6#8 4#8 State.reset).atReg (.staged 0) ∧
    (at' 6#8 7#8 State.reset).atReg (.staged 3) ∧ (at' 6#8 0#8 State.reset).atCommand .areas = true ∧
    (∀ a, (State.reset.areaAt a).binding = none) ∧
    State.reset.areas.staged[0].toNat + State.reset.areas.staged[1].toNat + State.reset.areas.staged[2].toNat +
      State.reset.areas.staged[3].toNat = 64 ∧
    64 < (17#8).toNat + (16#8).toNat + (16#8).toNat + (16#8).toNat ∧
    ((State.reset.setArea 0 { AreaRecord.reset 0 with binding := some ⟨1, .read⟩ }).areaAt 0).binding =
      some ⟨1, .read⟩ ∧
    (State.reset.slotAt 1).state ≠ .done ∧ (State.reset.slotAt 1).state ≠ .failed := by
  unfold State.atReg
  decide

/-- The data port selected, the first area in a condition. -/
def porting (r : AreaRecord) : State := at' 6#8 8#8 (State.reset.setArea 0 r)

theorem test_witness_DataPortMovesTheRing : (porting (AreaRecord.reset 0)).atReg .dataPort ∧
    (porting (AreaRecord.reset 0)).areasInside = true ∧ (porting (AreaRecord.reset 0)).areas.memory.wf ∧
    (porting (AreaRecord.reset 0)).selArea.binding = none ∧
    (porting (AreaRecord.reset 0)).selArea.fill < (porting (AreaRecord.reset 0)).selArea.size ∧
    (porting (AreaRecord.reset 0)).selArea.fill = 0 ∧
    (porting { AreaRecord.reset 0 with fill := 1024 }).selArea.size ≤
      (porting { AreaRecord.reset 0 with fill := 1024 }).selArea.fill ∧
    0 < (porting { AreaRecord.reset 0 with fill := 1 }).selArea.fill ∧
    (porting { AreaRecord.reset 0 with binding := some ⟨0, .read⟩ }).selArea.binding = some ⟨0, .read⟩ ∧
    (porting { AreaRecord.reset 0 with binding := some ⟨0, .write⟩ }).selArea.binding = some ⟨0, .write⟩ := by
  unfold State.atReg
  decide

/-- A notice. -/
def told : Notice := { body := .cycleOverrun 1, cycle := 0#16 }

/-- A notice unit with a queue and a lost count. -/
def noticed (n lost : Nat) : NoticeUnit :=
  { NoticeUnit.reset with queue := List.replicate n told, lostCount := lost }

/-- Pulses owed up to the limit. -/
def pulsing : State := { State.reset with notices := { State.reset.notices with attnOwed := 15 } }

theorem test_witness_NoticesQueuedAndPulsesOwed : (noticed 0 0).queue = [] ∧ (noticed 31 0).queue ≠ [] ∧
    (noticed 31 0).queue.length < 32 ∧ 32 ≤ (noticed 32 0).queue.length ∧ (noticed 32 0).lostCount = 0 ∧
    0 < (noticed 32 254).lostCount ∧ (noticed 32 254).lostCount < 255 ∧ 255 ≤ (noticed 32 255).lostCount ∧
    hasKind 0x02#8 .cycleEnd = true ∧ hasKind 0#8 .cycleEnd = false ∧ pulsing.notices.attnLine = false ∧
    0 < pulsing.notices.attnOwed := by decide

theorem test_witness_ShortCommandsAnswered : (at' 2#8 0#8 State.reset).atCommand .cycle = true ∧
    definesCommand .cycle 1#8 = false ∧ (at' 5#8 0#8 State.reset).atCommand .slots = true ∧
    definesCommand .slots 0#8 = false ∧ definesCommand .slots 6#8 = false ∧ definesCommand .slots 5#8 = true ∧
    dataWriteRow (at' 5#8 0#8 State.reset) 4#8 = .abort ∧
    (at' 0#8 0#8 State.reset).atCommand .global = true ∧ (at' 4#8 0#8 State.reset).atCommand .image = true ∧
    (at' 7#8 0#8 State.reset).atCommand .notices = true ∧ (noticed 0 0).queue = [] ∧
    (noticed 1 0).queue = [told] ∧ (noticed 3 0).queue = told :: told :: [told] := by decide

theorem test_witness_AlwaysTakenWrites : (at' 4#8 0x40#8 State.reset).atReg (.imageByte 0) ∧
    (at' 4#8 0x7F#8 State.reset).atReg (.imageByte 63) ∧
    ({ State.reset.image with select := 2 } : ImageUnit).select = 2 ∧ State.reset.image.staging.wf ∧
    (at' 4#8 6#8 State.reset).atReg (.byte .follow) ∧ (at' 4#8 12#8 State.reset).atReg (.byte .deadline) ∧
    (at' 0#8 9#8 State.reset).atReg (.byte .clearing) ∧ (at' 0#8 10#8 State.reset).atReg (.byte .intEnable) ∧
    (at' 0#8 11#8 State.reset).atReg (.byte .attnEnable) := by
  unfold State.atReg
  decide

/-- The cycle's MARK going out, with bit times left. -/
def marked (r : Nat) : State := { flying mark marking with sched := { marking.sched with timer := .running r } }

theorem test_witness_MarkEndOpensTheScan : (marked 20000).line.txn = some mark ∧ mark.kind = .mark ∧
    mark.address = 31 ∧ (marked 20000).link.state = .running ∧ (marked 20000).sched.stage = .mark ∧
    (marked 20000).regionsInside = true ∧ (marked 20000).areasInside = true ∧ mark.phase = .sending ∧
    (marked 20000).sched.timer.elapse (10 * (6 + mark.payload.length)) ≠ .expired ∧
    (marked 79).sched.timer.elapse (10 * (6 + mark.payload.length)) = .expired := by decide

/-- The cycle's MARK settling after an echo that differed, with bit times left. -/
def markFaulted (r : Nat) : State :=
  { flying { mark with phase := .settling, settling := some .echoFault } marking with
    sched := { marking.sched with timer := .running r } }

theorem test_witness_MarkEndOpensTheScan_fault :
    (markFaulted 20000).line.txn = some { mark with phase := .settling, settling := some .echoFault } ∧
    (markFaulted 20000).link.state = .running ∧ (markFaulted 20000).sched.stage = .mark ∧
    (markFaulted 20000).regionsInside = true ∧ (markFaulted 20000).areasInside = true ∧
    (markFaulted 20000).line.echoFaults < 2 ∧ (markFaulted 20000).sched.timer.elapse 20 ≠ .expired ∧
    (markFaulted 19).sched.timer.elapse 20 = .expired := by decide

theorem test_witness_LineEventsOfATransaction :
    (flying (txn .probe .gap none) scanning).line.txn = some (txn .probe .gap none) ∧
    (txn .probe .gap none).phase = .gap ∧ (flying (txn .probe .gap none) scanning).regionsInside = true ∧
    (flying (txn .probe .gap none) scanning).areasInside = true ∧ (txn .probe .sending none).phase = .sending ∧
    (txn .probe .sending none).kind ≠ .mark ∧ ([] : List Character).length < 6 ∧
    [] = (txn .probe .sending none).sent.take 0 ∧ (txn .probe .sending none).sent[0]? ≠ badEcho[0]? ∧
    (txn .scan .awaiting none).phase = .awaiting ∧ 40 ≤ scanning.line.replyWindow.toNat ∧
    (txn .scan .receiving none).phase = .receiving ∧ receiveFaultMet [0x80#8, 0#8, 0#8, 0#8] false = true ∧
    receiveFaultMet [0#8, 1#8, 9#8, 0x41#8] false = true ∧ receiveFaultMet [0#8, 1#8, 9#8, 0x40#8] false = false ∧
    receiveFaultMet [0#8] true = true ∧ receiveFaultMet scanReply true = true ∧ replyCutShort [0#8] = true ∧
    replyCutShort scanReply.dropLast = true ∧ replyCutShort scanReply = false ∧
    (txn .scan .settling (some .echoFault)).phase = .settling ∧
    (txn .scan .settling (some .echoFault)).settling = some .echoFault ∧
    (txn .scan .settling (some .corrupt)).settling = some .corrupt ∧ 20 ≤ 20 ∧ replyComplete scanReply = true := by
  decide

theorem test_witness_CharactersOnTheLine :
    (flying (txn .probe .sending none) scanning).line.txn = some (txn .probe .sending none) ∧
    (txn .probe .sending none).phase = .sending ∧ (txn .probe .sending none).echoedBy badEcho = false ∧
    (txn .probe .sending none).differsAtLast [Character.sent 1#8] = false ∧
    (txn .probe .sending none).echoedBy (txn .probe .sending none).sent = true ∧
    (txn .probe .sending none).differsAtLast badEcho = true ∧ ([1#8] : List Byte)[0]? = some 1#8 := by decide +kernel

theorem test_witness_EchoLimitEntersFault :
    (thirdFault .running).line.txn = some (txn .scan .settling (some .echoFault)) ∧
    (txn .scan .settling (some .echoFault)).phase = .settling ∧
    (txn .scan .settling (some .echoFault)).settling = some .echoFault ∧ (thirdFault .running).line.echoFaults = 2 ∧
    (thirdFault .running).link.state = .running ∧ (thirdFault .running).regionsInside = true ∧
    (thirdFault .running).areasInside = true ∧ (thirdFault .stopping).link.state = .stopping ∧
    (thirdFault .stopping).line.echoFaults = 2 := by decide

theorem test_witness_ReplyClassifiedByFiveTests : headerLength 2#8 = ([0x80#8, 0x55#8] : List Byte).length ∧
    headerLength 64#8 = 64 ∧ frameCheck [0#8, 1#8, 0x09#8, 2#8, 0x80#8, 0x55#8] ≠ 0#16 ∧
    (0#8 &&& 0x1F#8 : Byte).toNat = 0 ∧ (1#8 &&& 0x1F#8 : Byte).toNat = (txn .scan .receiving none).address ∧
    (2#8 &&& 0x1F#8 : Byte).toNat ≠ (txn .scan .receiving none).address ∧
    replyKindOf (0x09#8 &&& 0x0F#8) = some .scanReply ∧ .scanReply ∈ (txn .scan .receiving none).allowed ∧
    .ident ∉ (txn .scan .receiving none).allowed ∧
    exactReplyLength (txn .scan .receiving none) .scanReply = some 2 := by decide +kernel

theorem test_witness_RequestFramesAndCosts : mark.address < 32 ∧ mark.payload.length ≤ 64 := by decide

theorem test_witness_RequestFramesAndCosts_kind : requestCost 40 .scan 2 4 = txnCost 40 2 5 := by decide

theorem test_witness_MemoriesStayCanonical : State.reset.memoriesWf ∧ step State.reset = .next State.reset := by
  unfold State.memoriesWf
  exact ⟨by decide, rfl⟩

theorem test_witness_StepsNeverStopAndStayAddressed : State.reset.addressingLawful := by
  unfold State.addressingLawful State.layoutLawful
  decide

theorem test_witness_NoticeLawsKept : State.reset.notices.lawful ∧ step State.reset = .next State.reset := by
  unfold NoticeUnit.lawful
  exact ⟨by decide, rfl⟩

theorem test_witness_LineAndCycleLawsKept : State.reset.lineLawful ∧ State.reset.cycleLawful ∧
    step State.reset = .next State.reset := by
  unfold State.lineLawful LineEngine.driven State.cycleLawful
  exact ⟨⟨by decide, by decide, fun h => (by cases h), fun h => (by cases h)⟩, by decide, rfl⟩

theorem test_witness_ModuleRecordLawsKept : State.reset.modulesLawful ∧ step State.reset = .next State.reset := by
  unfold State.modulesLawful ModuleRecord.lawful
  exact ⟨by decide, rfl⟩

theorem test_witness_FailureCountLawKept : State.reset.lineLawful ∧ State.reset.countsLawful ∧
    step State.reset = .next State.reset := by
  refine ⟨test_witness_LineAndCycleLawsKept.1, ?_, rfl⟩
  unfold State.countsLawful ModuleRecord.countLawful
  decide

/-- RUNNING in stage ACYCLIC with the pair driven, slot 0 QUEUED for module 1 with area 0 bound to it. -/
def agreed : State :=
  let s := slotted writing .queued .none none queued
  let s := s.setArea 0 { s.areaAt 0 with binding := some ⟨0, .write⟩ }
  { s with line := { s.line with lde := true } }

theorem test_witness_ExchangeLawsKept_line : agreed.lineLawful :=
  ⟨fun h => absurd h (by decide), fun h => absurd h (by decide),
    fun _ => ⟨by decide, fun t h => absurd (show (none : Option Txn) = some t from h) (by simp)⟩,
    fun h => absurd h (by decide)⟩

theorem test_witness_ExchangeLawsKept : agreed.exchangesLawful ∧ step agreed = .next (nextDecision agreed) := by
  have still : ∀ n, (agreed.slotAt n).inFlight = none := by decide
  refine ⟨⟨?_, ?_, fun a n d => ?_, ?_, ?_, fun n q h => ?_, ?_⟩, rfl⟩
  · unfold State.holdersAgree; decide
  · unfold State.waitingAgrees; decide
  · revert a n; cases d <;> decide
  · unfold State.fillsInside; decide
  · unfold Slot.lawful; decide
  · rw [still n] at h; cases h
  · decide

end Sys2Proof.Tests
end

section
/-! SUPPORT. The law of the line and of the cycle, by the link state, and its keeping by every effect of every command. -/

namespace Sys2Proof.Machine

/-- No transaction in flight, the driver off and LTX at the idle level. -/
def LineEngine.released (l : LineEngine) : Prop := l.txn = none ∧ l.lde = false ∧ l.ltx = .idle

/-- No cycle runs: stage NONE and a stopped timer. -/
def Scheduler.still (c : Scheduler) : Prop := c.stage = .none ∧ c.timer = .stopped

/-- The laws of the line and of the cycle together, one clause a link state. -/
def State.lineAndCycle (s : State) : Prop :=
  (s.link.state = .off ∨ s.link.state = .fault → s.line.released ∧ s.sched.still) ∧
  (s.link.state = .checking ∨ s.link.state = .idle → s.line.free ∧ s.sched.still) ∧
  (s.link.state = .running → s.line.driven ∧ s.cycleRuns) ∧
  (s.link.state = .stopping →
    s.line.txn ≠ none ∧ s.line.driven ∧ s.sched.stage ≠ .none ∧ s.sched.timer ≠ .stopped)

theorem State.lineAndCycle_iff (s : State) : s.lineAndCycle ↔ s.lineLawful ∧ s.cycleLawful := by
  unfold State.lineAndCycle State.lineLawful State.cycleLawful
  cases s.link.state <;>
    simp [LineEngine.released, LineEngine.free, Scheduler.still, State.cycleRuns] <;> tauto

/-- The law looks at the line engine, the link state, the stage and the timer alone. -/
theorem State.lineAndCycle_congr {s t : State} (hl : t.line = s.line) (hk : t.link.state = s.link.state)
    (hs : t.sched.stage = s.sched.stage) (ht : t.sched.timer = s.sched.timer) (h : s.lineAndCycle) :
    t.lineAndCycle := by
  unfold State.lineAndCycle State.cycleRuns Scheduler.still at *
  rw [hl, hk, hs, ht]
  exact h

theorem State.lineAndCycle_frame {s t : State} (hl : t.line = s.line) (hk : t.link = s.link)
    (hc : t.sched = s.sched) (h : s.lineAndCycle) : t.lineAndCycle :=
  State.lineAndCycle_congr hl (by rw [hk]) (by rw [hc]) (by rw [hc]) h

/-! ### The law in each link state -/

theorem State.lineAndCycle_released (s : State) (hk : s.link.state = .off ∨ s.link.state = .fault) :
    s.lineAndCycle ↔ s.line.released ∧ s.sched.still := by
  rcases hk with hk | hk <;> simp [State.lineAndCycle, hk]

theorem State.lineAndCycle_free (s : State) (hk : s.link.state = .checking ∨ s.link.state = .idle) :
    s.lineAndCycle ↔ s.line.free ∧ s.sched.still := by
  rcases hk with hk | hk <;> simp [State.lineAndCycle, hk]

theorem State.lineAndCycle_running (s : State) (hk : s.link.state = .running) :
    s.lineAndCycle ↔ s.line.driven ∧ s.cycleRuns := by
  simp [State.lineAndCycle, hk]

theorem State.lineAndCycle_stopping (s : State) (hk : s.link.state = .stopping) :
    s.lineAndCycle ↔ s.line.txn ≠ none ∧ s.line.driven ∧ s.sched.stage ≠ .none ∧ s.sched.timer ≠ .stopped := by
  simp [State.lineAndCycle, hk]

/-- Where the timer is not stopped a cycle runs, in RUNNING or STOPPING. -/
theorem State.lineAndCycle.cycling {s : State} (h : s.lineAndCycle) (ht : s.sched.timer ≠ .stopped) :
    s.link.state = .running ∨ s.link.state = .stopping := by
  unfold State.lineAndCycle Scheduler.still at h
  cases hk : s.link.state <;> simp_all

/-- A transaction in flight is one of RUNNING or STOPPING, with a stage that is neither NONE nor, in RUNNING, REST, and a
timer that is not stopped. -/
theorem State.lineAndCycle.inFlight {s : State} {t : Txn} (h : s.lineAndCycle) (ht : s.line.txn = some t) :
    (s.link.state = .running ∨ s.link.state = .stopping) ∧ s.sched.stage ≠ .none ∧ s.sched.timer ≠ .stopped ∧
    (s.link.state = .running → s.sched.stage ≠ .rest) := by
  unfold State.lineAndCycle LineEngine.released LineEngine.free State.cycleRuns at h
  cases hk : s.link.state <;> simp_all

/-! ### The effects on the line -/

theorem CycleTimer.elapse_ne_stopped {c : CycleTimer} (h : c ≠ .stopped) (d : Nat) : c.elapse d ≠ .stopped := by
  cases c with
  | stopped => exact absurd rfl h
  | running r => simp only [CycleTimer.elapse]; split <;> simp
  | expired => simp [CycleTimer.elapse]

/-- A transaction in flight moves on to a phase, with the pins of the phase and bit times gone by. -/
theorem setTxn_lineAndCycle {s u : State} {t t' : Txn} {lde : Bool} {ltx : LtxLevel} (d : Nat) (h : s.lineAndCycle)
    (ht : s.line.txn = some t) (hlde : lde = t'.phase.drives) (hltx : ltx = t'.onLine) (hk : u.link = s.link)
    (hu : u.sched = (s.elapse d).sched) : (setTxn t' lde ltx u).lineAndCycle := by
  obtain ⟨hc, hs, hr, hrest⟩ := h.inFlight ht
  have hd : (setTxn t' lde ltx u).line.driven :=
    ⟨fun e => (by cases e), fun x hx => (by cases hx; exact ⟨hlde, hltx⟩)⟩
  have hs' : (setTxn t' lde ltx u).sched.stage = s.sched.stage := by simp [setTxn, hu]
  have hr' : (setTxn t' lde ltx u).sched.timer ≠ .stopped := by
    simpa [setTxn, hu] using CycleTimer.elapse_ne_stopped hr d
  have hk' : (setTxn t' lde ltx u).link.state = s.link.state := by simp [setTxn, hk]
  rcases hc with hc | hc
  · rw [State.lineAndCycle_running _ (hk'.trans hc)]
    exact ⟨hd, hr', by rw [hs']; exact hs, fun e => by (cases e), fun e => absurd (hs' ▸ e) (hrest hc)⟩
  · rw [State.lineAndCycle_stopping _ (hk'.trans hc)]
    exact ⟨by simp [setTxn], hd, by rw [hs']; exact hs, hr'⟩

theorem enterFault_lineAndCycle (c : LinkCause) {s : State} (h : s.line.txn = none) :
    (enterFault c s).lineAndCycle := by
  obtain ⟨hk, ht, hd, hx, hs, hr⟩ := enterFault_facts c h
  rw [State.lineAndCycle_released _ (Or.inr hk)]
  exact ⟨⟨ht, hd, hx⟩, hs, hr⟩

theorem enterOff_lineAndCycle {s : State} (h : s.line.txn = none) : (enterOff s).lineAndCycle := by
  obtain ⟨hk, ht, hd, hx, hs, hr⟩ := enterOff_facts h
  rw [State.lineAndCycle_released _ (Or.inl hk)]
  exact ⟨⟨ht, hd, hx⟩, hs, hr⟩

theorem stopDone_lineAndCycle {s : State} (h : s.line.txn = none) : (stopDone s).lineAndCycle := by
  obtain ⟨hk, hl, hs, hr, -⟩ := stopDone_facts h
  rw [State.lineAndCycle_free _ (Or.inr hk)]
  exact ⟨hl, hs, hr⟩

theorem cycleStart_lineAndCycle (late : Bool) {s : State} (hk : s.link.state = .running) :
    (cycleStart late s).lineAndCycle := by
  rw [State.lineAndCycle_running _ (by rw [(cycleStart_frame late s).2.1, hk])]
  exact ⟨cycleStart_driven late s, cycleStart_runs late s⟩

theorem overrunCut_lineAndCycle (late : Bool) {s : State} (hk : s.link.state = .running) :
    (overrunCut late s).lineAndCycle :=
  cycleStart_lineAndCycle late (by rw [(cycleEnd_frame _ _ s).2.2.1, hk])

/-- The end of a transaction in RUNNING or STOPPING, while a cycle runs. -/
theorem endTxn_lineAndCycle (t : Txn) (o : TxnOutcome) (order : EndOrder) {s : State}
    (hk : s.link.state = .running ∨ s.link.state = .stopping) (hs : s.sched.stage ≠ .none)
    (hr : s.sched.timer ≠ .stopped) : (endTxn t o order s).lineAndCycle := by
  have hfree := routed_free t o s
  obtain ⟨hstage, htimer⟩ := routeOutcome_cycle t o (removeTxn o s)
  have hlink : (routeOutcome t o (removeTxn o s)).link = s.link := (routeOutcome_frame t o (removeTxn o s)).2.2.1
  unfold endTxn afterOutcome
  split
  · exact enterFault_lineAndCycle _ hfree.1
  · rcases hk with hk | hk
    · simp only [hlink, hk]
      rw [State.lineAndCycle_running _ (by rw [(decideInOrder_frame _ _).2.1, hlink, hk])]
      exact ⟨decideInOrder_driven order hfree,
        decideInOrder_runs order hfree.1 (by rw [htimer]; exact hr) (by rw [hstage]; exact hs)⟩
    · simp only [hlink, hk]
      exact stopDone_lineAndCycle hfree.1

/-- The end of a transaction in flight after bit times went by. -/
theorem endTxn_elapsed_lineAndCycle {s u : State} {t : Txn} (o : TxnOutcome) (d : Nat) (order : EndOrder)
    (h : s.lineAndCycle) (ht : s.line.txn = some t) (hk : u.link = s.link) (hu : u.sched = (s.elapse d).sched) :
    (endTxn t o order u).lineAndCycle := by
  obtain ⟨hc, hs, hr, -⟩ := h.inFlight ht
  exact endTxn_lineAndCycle t o order (by rw [hk]; exact hc) (by rw [hu]; exact hs)
    (by rw [hu]; exact CycleTimer.elapse_ne_stopped hr d)

/-- The scheduler's decision that is due. -/
theorem nextDecision_lineAndCycle {s : State} (h : s.lineAndCycle) (hd : s.decisionDue = true) :
    (nextDecision s).lineAndCycle := by
  simp only [State.decisionDue, Bool.and_eq_true, beq_iff_eq, Option.isNone_iff_eq_none] at hd
  obtain ⟨⟨hk, ht⟩, -⟩ := hd
  obtain ⟨hl, hr, hs, -, -⟩ := (State.lineAndCycle_running s hk).mp h
  rw [State.lineAndCycle_running _ (by rw [(nextDecision_frame s).2.1, hk])]
  exact ⟨nextDecision_driven ⟨ht, hl.1 ht⟩, nextDecision_runs ht hr hs⟩

/-! ### The effects of commands -/

theorem putLinkConfig_linkState (v : Byte) (r : Reg) (s : State) :
    (putLinkConfig v r s).link.state = s.link.state := by
  unfold putLinkConfig
  split <;> rfl

theorem putCycleLength_cycle (v : Byte) (r : Reg) (s : State) :
    (putCycleLength v r s).sched.stage = s.sched.stage ∧ (putCycleLength v r s).sched.timer = s.sched.timer := by
  unfold putCycleLength
  split <;> exact ⟨rfl, rfl⟩

theorem putScanList_cycle (v : Byte) (r : Reg) (s : State) :
    (putScanList v r s).sched.stage = s.sched.stage ∧ (putScanList v r s).sched.timer = s.sched.timer := by
  unfold putScanList
  split <;> exact ⟨rfl, rfl⟩

theorem startLink_lineAndCycle {s : State} (h : s.lineAndCycle) (hk : s.link.state = .off) :
    (startLink s).lineAndCycle := by
  obtain ⟨hl, hc⟩ := (State.lineAndCycle_released s (Or.inl hk)).mp h
  rw [State.lineAndCycle_free _ (Or.inl rfl)]
  exact ⟨⟨hl.1, rfl, rfl⟩, hc⟩

theorem stopLink_lineAndCycle {s : State} (h : s.lineAndCycle) (hk : s.link.state = .running) :
    (stopLink s).lineAndCycle := by
  obtain ⟨hl, hr, hs, -, -⟩ := (State.lineAndCycle_running s hk).mp h
  unfold stopLink
  dsimp only
  split
  · next hn => exact stopDone_lineAndCycle (by simpa using hn)
  · next hn =>
    rw [State.lineAndCycle_stopping _ rfl]
    exact ⟨by simpa using hn, hl, hs, hr⟩

/-- The timer of a running cycle expires (R40, R46, R49). -/
theorem afterExpiry_lineAndCycle {s : State} {r : Nat} (h : s.lineAndCycle) (hr : s.sched.timer = .running r) :
    (afterExpiry { s with sched := { s.sched with timer := .expired } }).lineAndCycle := by
  rcases h.cycling (by rw [hr]; simp) with hk | hk
  · obtain ⟨hl, -, hs, -, hrest⟩ := (State.lineAndCycle_running s hk).mp h
    simp only [afterExpiry, hk]
    split
    · next ht =>
      refine (State.lineAndCycle_running { s with sched := { s.sched with timer := .expired } } hk).mpr
        ⟨hl, fun e => (by cases e), hs, fun e => ?_, hrest⟩
      rw [show s.line.txn = none from e] at ht
      cases ht
    · split
      exacts [overrunCut_lineAndCycle false hk, overrunCut_lineAndCycle false hk, cycleStart_lineAndCycle false hk,
        cycleStart_lineAndCycle false hk, cycleStart_lineAndCycle false hk, absurd ‹_› hs]
  · obtain ⟨ht, hl, hs, -⟩ := (State.lineAndCycle_stopping s hk).mp h
    simp only [afterExpiry, hk]
    exact (State.lineAndCycle_stopping { s with sched := { s.sched with timer := .expired } } hk).mpr
      ⟨ht, hl, hs, fun e => (by cases e)⟩

/-- Every effect of every command keeps the law of the line and of the cycle. -/
theorem lineAndCycle_kept : KeptByEffects State.lineAndCycle where
  powerOn s _ := (State.lineAndCycle_released _ (Or.inl rfl)).mpr ⟨⟨rfl, rfl, rfl⟩, rfl, rfl⟩
  platform s _ := (State.lineAndCycle_released _ (Or.inl rfl)).mpr ⟨⟨rfl, rfl, rfl⟩, rfl, rfl⟩
  window _ _ h := h
  pending _ _ h := h
  windowEvent _ h := h
  plain v r s h := State.lineAndCycle_frame (by simp) (by simp) (by simp) h
  start _ h hk := startLink_lineAndCycle h hk
  run _ _ _ := cycleStart_lineAndCycle false rfl
  stop _ h hk := stopLink_lineAndCycle h hk
  shutdown s _ _ := enterOff_lineAndCycle (cutTxn_line s)
  linkConfig v r s h _ :=
    State.lineAndCycle_congr (by simp) (putLinkConfig_linkState v r s) (by simp) (by simp) h
  cycleLength v r s h _ :=
    State.lineAndCycle_congr (by simp) (by simp) (putCycleLength_cycle v r s).1 (putCycleLength_cycle v r s).2 h
  scanList v r s h _ :=
    State.lineAndCycle_congr (by simp) (by simp) (putScanList_cycle v r s).1 (putScanList_cycle v r s).2 h
  searchVacant _ _ h _ := h
  moduleField _ _ _ h _ := h
  expect _ h _ _ := h
  adopt _ h _ _ _ := h
  forget _ h _ _ := h
  disable _ h _ _ := h
  enable _ h _ := h
  staging v r s h := State.lineAndCycle_frame (by simp) (by simp) (by simp) h
  imageFlags _ _ h _ _ _ _ _ _ := h
  slotField _ _ _ h _ := h
  limit v r s h _ := State.lineAndCycle_frame (by simp) (by simp) (by simp) h
  post s h _ _ _ _ := State.lineAndCycle_frame (by simp) (by simp) (by simp) h
  retire s h _ := State.lineAndCycle_frame (by simp) (by simp) (by simp) h
  restart s h _ _ := State.lineAndCycle_frame (by simp) (by simp) (by simp) h
  abortQueued s h _ := State.lineAndCycle_frame (by simp) (by simp) (by simp) h
  abortInFlight _ h _ _ := h
  abortInPhase _ h _ _ := h
  resumeQueued s h _ _ _ := State.lineAndCycle_frame (by simp) (by simp) (by simp) h
  resumePhase _ h _ _ := h
  staged v r s h := State.lineAndCycle_frame (by simp) (by simp) (by simp) h
  configure _ h _ _ := h
  flush _ h _ := h
  portWrite _ _ h _ _ _ := h
  portRead _ h _ _ _ := h
  pop _ h _ := h
  clearLost _ h := h
  clearing _ _ h := h
  intEnable _ _ h := h
  attnEnable _ _ h := h
  pulseStart _ h _ := h
  pulseEnd _ h := h
  checkPassed _ h hk :=
    (State.lineAndCycle_free _ (Or.inr rfl)).mpr ((State.lineAndCycle_free _ (Or.inl hk)).mp h)
  checkFailed _ _ h hk :=
    enterFault_lineAndCycle _ ((State.lineAndCycle_free _ (Or.inl hk)).mp h).1.1
  expiry _ _ h hr := afterExpiry_lineAndCycle h hr
  gap _ _ h ht _ := setTxn_lineAndCycle _ h ht rfl rfl rfl rfl
  settle _ _ _ d _ h ht _ := setTxn_lineAndCycle d h ht rfl rfl rfl rfl
  await _ d _ h ht _ _ := setTxn_lineAndCycle d h ht rfl rfl rfl rfl
  receive _ d _ h ht _ := setTxn_lineAndCycle d h ht rfl rfl rfl rfl
  markEnd _ d order _ h _ _ ht _ _ := endTxn_elapsed_lineAndCycle _ d order h ht rfl rfl
  txnEnd _ o d order _ h _ _ ht _ _ _ := endTxn_elapsed_lineAndCycle o d order h ht rfl rfl
  due _ h _ _ hd := nextDecision_lineAndCycle h hd

/-- Settles O57: the law by link state is kept by every effect, and so by every step. -/
theorem lineAndCycleLawsKept : Obligations.LineAndCycleLawsKept := by
  unfold Obligations.LineAndCycleLawsKept
  intro s t hl hc hstep
  rw [← State.lineAndCycle_iff]
  exact step_keeps lineAndCycle_kept (s.lineAndCycle_iff.mpr ⟨hl, hc⟩) hstep

end Sys2Proof.Machine
end

section
/-! SUPPORT. Frames of the module bus: the bytes of a 16-bit field, the masked header bytes, the classification of a
reply test by test; and the statements on frames, replies and resets. -/

namespace Sys2Proof.Machine

/-! ### The bytes of a 16-bit field (R182, R189) -/

@[simp] theorem hiByte_halfOf (hi lo : Byte) : hiByte (halfOf hi lo) = hi := BitVec.extractLsb'_append_eq_left

@[simp] theorem loByte_halfOf (hi lo : Byte) : loByte (halfOf hi lo) = lo := BitVec.extractLsb'_append_eq_right

@[simp] theorem halfOf_hiByte_loByte (h : Half) : halfOf (hiByte h) (loByte h) = h := by
  simp only [hiByte, loByte, halfOf]
  ext i hi
  simp
  grind

theorem lineBytes_eq_iff (h : Half) (hi lo : Byte) : lineBytes h = [hi, lo] ↔ h = halfOf hi lo := by
  constructor
  · intro e
    simp only [lineBytes, List.cons.injEq, and_true] at e
    rw [← e.1, ← e.2, halfOf_hiByte_loByte]
  · rintro rfl
    simp [lineBytes]

/-! ### Request frames (R5, R6, R189) -/

/-- A number below 2 to the `m` stands in the low `m` bits of its byte. -/
theorem ofNat_and_lowMask {m n : Nat} (hm : m ≤ 8) (h : n < 2 ^ m) :
    BitVec.ofNat 8 n &&& BitVec.ofNat 8 (2 ^ m - 1) = BitVec.ofNat 8 n := by
  have h8 : 2 ^ m ≤ 2 ^ 8 := Nat.pow_le_pow_right (by omega) hm
  apply BitVec.eq_of_toNat_eq
  rw [BitVec.toNat_and, BitVec.toNat_ofNat, BitVec.toNat_ofNat, Nat.mod_eq_of_lt (show n < 2 ^ 8 by omega),
    Nat.mod_eq_of_lt (show 2 ^ m - 1 < 2 ^ 8 by omega), Nat.and_two_pow_sub_one_of_lt_two_pow h]

/-- A kind code fills no more than its four bits. -/
theorem RequestKind.code_and_mask (k : RequestKind) : k.code &&& 0x0F#8 = k.code := by cases k <;> rfl

/-- The header of a request from address 0, with no mask left. -/
theorem headerBytes_request {address length : Nat} (bit : Bool) (k : RequestKind) (ha : address < 32)
    (hl : length ≤ 64) : headerBytes address 0 bit k.code length =
      [BitVec.ofNat 8 address, 0#8, (if bit then 0x10#8 else 0#8) ||| k.code, BitVec.ofNat 8 length] := by
  have h1 : BitVec.ofNat 8 address &&& 0x1F#8 = BitVec.ofNat 8 address :=
    ofNat_and_lowMask (m := 5) (by decide) ha
  have h3 : BitVec.ofNat 8 length &&& 0x7F#8 = BitVec.ofNat 8 length :=
    ofNat_and_lowMask (m := 7) (by decide) (by omega)
  simp only [headerBytes, h1, h3, k.code_and_mask]
  rfl

/-- Settles O52: the header has its masks removed, the costs are their sums. -/
theorem requestFramesAndCosts : Obligations.RequestFramesAndCosts := by
  unfold Obligations.RequestFramesAndCosts
  refine ⟨fun t ha hl => ⟨_, rfl, ?_⟩, by decide +kernel, fun w len n => ?_, fun k s => ⟨rfl, ?_⟩, ?_⟩
  · rw [Txn.frame, headerBytes_request _ _ ha hl]
    rfl
  · exact ⟨rfl, rfl, rfl, rfl, rfl, rfl, rfl, rfl⟩
  · simp only [scanCost, requestCost, txnCost, replyAllowance, State.window0, Config.gapBits, Config.characterBits]
    omega
  · decide

/-! ### The classification of a reply (R16) -/

/-- Test 1: the check of a reply of declared length. -/
theorem classifyReply_eq (t : Txn) (b0 b1 b2 c0 c1 : Byte) {b3 : Byte} {p : List Byte} (h : headerLength b3 = p.length) :
    classifyReply t (b0 :: b1 :: b2 :: b3 :: (p ++ [c0, c1])) =
      if frameCheck (b0 :: b1 :: b2 :: b3 :: p) = halfOf c0 c1 then classifyChecked t b0 b1 b2 p else .corrupt := by
  simp only [classifyReply, h, List.take_left, List.drop_left, lineBytes_eq_iff]

/-- Test 5: the payload length, where the kind has an exact one. -/
theorem lengthFits_iff (t : Txn) (k : ReplyKind) (n : Nat) :
    lengthFits t k n = true ↔ ∀ l, exactReplyLength t k = some l → l = n := by
  unfold lengthFits
  cases exactReplyLength t k <;> simp

/-- Test 4 where the kind field names no reply kind. -/
theorem classifyChecked_noKind {t : Txn} {b0 b1 b2 : Byte} (p : List Byte) (h0 : (b0 &&& 0x1F#8).toNat = 0)
    (h1 : (b1 &&& 0x1F#8).toNat = t.address) (hk : replyKindOf (b2 &&& 0x0F#8) = none) :
    classifyChecked t b0 b1 b2 p = .stray := by
  simp [classifyChecked, h0, h1, hk]

/-- Tests 4 and 5 of a kind: it is allowed and its length fits, or the reply is a stray. -/
theorem classifyChecked_kind {t : Txn} {b0 b1 b2 : Byte} {k : ReplyKind} (p : List Byte)
    (h0 : (b0 &&& 0x1F#8).toNat = 0) (h1 : (b1 &&& 0x1F#8).toNat = t.address)
    (hk : replyKindOf (b2 &&& 0x0F#8) = some k) :
    classifyChecked t b0 b1 b2 p =
      if k ∈ t.allowed ∧ ∀ l, exactReplyLength t k = some l → l = p.length then
        .reply (some { kind := k, payload := p, seqBit := b2.getLsbD 4 })
      else .stray := by
  simp [classifyChecked, h0, h1, hk, lengthFits_iff]

/-- Settles O51: the check first, then destination, source, kind and length. -/
theorem replyClassifiedByFiveTests : Obligations.ReplyClassifiedByFiveTests := by
  unfold Obligations.ReplyClassifiedByFiveTests
  intro t b0 b1 b2 b3 c0 c1 p hp
  dsimp only
  rw [classifyReply_eq t b0 b1 b2 c0 c1 hp]
  refine ⟨fun h => if_neg h, fun h => ?_⟩
  rw [if_pos h]
  refine ⟨fun h0 => ?_, fun h0 h1 => ?_, fun h0 h1 => ?_⟩
  · rw [classifyChecked, if_pos h0]
  · rw [classifyChecked, if_neg (not_not.mpr h0), if_pos h1]
  · refine ⟨fun hall => ?_, fun k hk ha => ?_⟩
    · cases hk : replyKindOf (b2 &&& 0x0F#8) with
      | none => exact classifyChecked_noKind p h0 h1 hk
      | some k => rw [classifyChecked_kind p h0 h1 hk, if_neg (fun hc => hall k hk hc.1)]
    · rw [classifyChecked_kind p h0 h1 hk]
      exact ⟨fun l hl hne => if_neg (fun hc => hne (hc.2 l hl)), fun hfit => if_pos ⟨ha, hfit⟩⟩

/-! ### The resets -/

/-- Settles O5: both resets written out, field by field. -/
theorem linkLineAndWindowAtResets : Obligations.LinkLineAndWindowAtResets := by
  unfold Obligations.LinkLineAndWindowAtResets
  intro s
  refine ⟨_, _, execPowerOnReset_eq s, rfl, rfl, rfl, rfl, rfl, rfl, rfl, rfl, rfl, rfl, rfl, rfl, rfl, rfl, rfl,
    fun t ht => ?_⟩
  have hv : ∀ u : Fin 8, RegisterWindow.reset.commands[u] = 0#8 ∧ RegisterWindow.reset.results[u] = .none := by decide
  rcases ht with rfl | rfl <;>
    exact ⟨rfl, rfl, rfl, rfl, rfl, rfl, rfl, rfl, rfl, rfl, rfl, hv, rfl, rfl⟩

end Sys2Proof.Machine
end

section
/-! SUPPORT. Characters on the line: their levels, the echo of a request, the headers of replies as they come in, and the
events of a transaction in flight, one equation each. -/

namespace Sys2Proof

/-! ### Levels (R3) -/

theorem Character.levels_data (c : Character) {i : Nat} (h : i < 8) :
    c.levels[i + 1]? = some (c.data.getLsbD i) := by
  interval_cases i <;> rfl

theorem Character.sent_levels (b : Byte) {j : Nat} (h : j < 10) :
    (Character.sent b).levels[j]? = some (if j = 0 then false else if j = 9 then true else b.getLsbD (j - 1)) := by
  interval_cases j <;> rfl

theorem lineLevels_cons (c : Character) (cs : List Character) : lineLevels (c :: cs) = c.levels ++ lineLevels cs := rfl

theorem lineLevels_length (cs : List Character) : (lineLevels cs).length = 10 * cs.length := by
  induction cs with
  | nil => rfl
  | cons c cs ih =>
    rw [lineLevels_cons, List.length_append, ih, List.length_cons, show c.levels.length = 10 from rfl]
    omega

/-- Character `i` takes bit times 10 × `i` to 10 × `i` + 9. -/
theorem lineLevels_getElem? {cs : List Character} {i j : Nat} {c : Character} (hc : cs[i]? = some c) (hj : j < 10) :
    (lineLevels cs)[10 * i + j]? = c.levels[j]? := by
  induction cs generalizing i with
  | nil => cases hc
  | cons d cs ih =>
    have hd : d.levels.length = 10 := rfl
    rw [lineLevels_cons]
    cases i with
    | zero =>
      cases hc
      rw [List.getElem?_append_left (by omega)]
      simp
    | succ i =>
      rw [List.getElem?_append_right (by omega), hd, show 10 * (i + 1) + j - 10 = 10 * i + j by omega]
      exact ih (by simpa using hc)

/-! ### The echo of a request (R11, R12) -/

theorem Character.eq_sent_iff (c : Character) (b : Byte) : c = Character.sent b ↔ c.data = b ∧ c.stop = true := by
  cases c
  simp [Character.sent]

/-- A character equal to the one sent, bit by bit. -/
theorem Character.eq_sent_iff_bits (c : Character) (b : Byte) :
    c = Character.sent b ↔ (∀ j, j < 8 → c.data.getLsbD j = b.getLsbD j) ∧ c.stop = true := by
  rw [Character.eq_sent_iff]
  exact and_congr_left fun _ => ⟨fun h _ _ => by rw [h], fun h => BitVec.eq_of_getLsbD_eq fun i hi => h i hi⟩

theorem sentCharacters_getElem? (frame : List Byte) (i : Nat) :
    (sentCharacters frame)[i]? = frame[i]?.map Character.sent := by
  simp [sentCharacters]

/-- Characters equal to the first ones of a frame as sent. -/
theorem eq_take_sentCharacters_iff {back : List Character} {frame : List Byte} (h : back.length ≤ frame.length) :
    back = (sentCharacters frame).take back.length ↔ ∀ (i : Nat) (c : Character) (b : Byte),
      back[i]? = some c → frame[i]? = some b → c = Character.sent b := by
  constructor
  · intro e i c b hc hb
    have hi : i < back.length := (List.getElem?_eq_some_iff.mp hc).1
    rw [e, List.getElem?_take_of_lt hi, sentCharacters_getElem?, hb] at hc
    exact (Option.some.inj hc).symm
  · intro e
    apply List.ext_getElem?
    intro i
    by_cases hi : i < back.length
    · rw [List.getElem?_take_of_lt hi, sentCharacters_getElem?, List.getElem?_eq_getElem hi,
        List.getElem?_eq_getElem (by omega)]
      exact congrArg some (e i _ _ (List.getElem?_eq_getElem hi) (List.getElem?_eq_getElem (by omega)))
    · rw [List.getElem?_eq_none (by omega), List.getElem?_eq_none (by rw [List.length_take]; omega)]

end Sys2Proof

namespace Sys2Proof.Machine

theorem Txn.echoedBy_iff (t : Txn) (back : List Character) :
    t.echoedBy back = true ↔ back.length = t.frame.length ∧ ∀ (i : Nat) (c : Character) (b : Byte),
      back[i]? = some c → t.frame[i]? = some b → c = Character.sent b := by
  have hlen : (sentCharacters t.frame).length = t.frame.length := List.length_map _
  simp only [Txn.echoedBy, Txn.sent, beq_iff_eq]
  constructor
  · intro e
    have hb : back.length = t.frame.length := by rw [e, hlen]
    refine ⟨hb, (eq_take_sentCharacters_iff hb.le).mp ?_⟩
    rw [List.take_of_length_le (by omega), e]
  · rintro ⟨hb, he⟩
    rw [(eq_take_sentCharacters_iff hb.le).mpr he, List.take_of_length_le (by omega)]

/-- The last character read back is the first that differs: those before it are as sent, and it is not. -/
theorem Txn.differsAtLast_concat_iff (t : Txn) (back : List Character) (c : Character) :
    t.differsAtLast (back ++ [c]) = true ↔ ∃ b : Byte, t.frame[back.length]? = some b ∧
      back = t.sent.take back.length ∧ c ≠ Character.sent b := by
  have hlen : t.sent.length = t.frame.length := List.length_map _
  simp only [Txn.differsAtLast, List.length_append, List.length_singleton, List.dropLast_concat, Bool.and_eq_true,
    decide_eq_true_eq, beq_iff_eq, bne_iff_ne, Nat.add_sub_cancel, hlen, List.take_add_one]
  constructor
  · rintro ⟨⟨hle, hback⟩, hne⟩
    have hb : t.frame[back.length]? = some t.frame[back.length] := List.getElem?_eq_getElem (by omega)
    refine ⟨_, hb, hback, fun hc => hne ?_⟩
    rw [Txn.sent, sentCharacters_getElem?, hb, hc, ← Txn.sent, ← hback]
    rfl
  · rintro ⟨b, hb, hback, hne⟩
    have hlt : back.length < t.frame.length := (List.getElem?_eq_some_iff.mp hb).1
    refine ⟨⟨hlt, hback⟩, fun e => hne ?_⟩
    rw [← hback, Txn.sent, sentCharacters_getElem?, hb] at e
    simpa using e

theorem Txn.differsAtLast_iff (t : Txn) (back : List Character) :
    t.differsAtLast back = true ↔ ∃ (c : Character) (b : Byte), back.getLast? = some c ∧
      t.frame[back.length - 1]? = some b ∧ c ≠ Character.sent b ∧
      ∀ (i : Nat) (d : Character) (e : Byte), i + 1 < back.length → back[i]? = some d → t.frame[i]? = some e →
        d = Character.sent e := by
  rcases List.eq_nil_or_concat back with rfl | ⟨init, c, rfl⟩
  · simp [Txn.differsAtLast]
  · have hpre : ∀ i : Nat, i < init.length → (init ++ [c])[i]? = init[i]? :=
      fun i hi => List.getElem?_append_left hi
    rw [List.concat_eq_append, Txn.differsAtLast_concat_iff]
    simp only [List.getLast?_concat, List.length_append, List.length_singleton, Nat.add_sub_cancel, Option.some.injEq,
      Nat.add_lt_add_iff_right]
    constructor
    · rintro ⟨b, hb, hinit, hne⟩
      refine ⟨c, b, rfl, hb, hne, fun i d e hi hd he => ?_⟩
      have hlt : init.length < t.frame.length := (List.getElem?_eq_some_iff.mp hb).1
      exact (eq_take_sentCharacters_iff hlt.le).mp hinit i d e (hpre i hi ▸ hd) he
    · rintro ⟨_, b, rfl, hb, hne, hall⟩
      have hlt : init.length < t.frame.length := (List.getElem?_eq_some_iff.mp hb).1
      refine ⟨b, hb, (eq_take_sentCharacters_iff hlt.le).mpr fun i d e hd he => ?_, hne⟩
      have hi : i < init.length := (List.getElem?_eq_some_iff.mp hd).1
      exact hall i d e hi ((hpre i hi).trans hd) he

/-! ### The transaction in flight, in a phase -/

theorem State.txnIn_of {s : State} {t : Txn} {p : TxnPhase} (ht : s.line.txn = some t) (hp : t.phase = p) :
    s.txnIn p = some t := by
  simp [State.txnIn, ht, hp]

theorem whenAddressed_eq {s : State} (t : State) (hr : s.regionsInside = true) (ha : s.areasInside = true) :
    whenAddressed s t = .next t := by
  simp [whenAddressed, hr, ha]

/-- Settles O49: levels by position, the echo character by character. -/
theorem charactersOnTheLine : Obligations.CharactersOnTheLine := by
  unfold Obligations.CharactersOnTheLine
  refine ⟨fun c => ⟨rfl, rfl, rfl, fun i hi => c.levels_data hi⟩, fun frame => ⟨?_, fun i j b hb hj => ?_⟩,
    fun t back => ⟨?_, ?_⟩, fun t back order s ht hp => ⟨fun h => ?_, fun h => ?_⟩⟩
  · rw [lineLevels_length, sentCharacters, List.length_map]
  · rw [lineLevels_getElem? (by rw [sentCharacters_getElem?, hb]; rfl) hj, Character.sent_levels b hj]
  · simp only [Txn.echoedBy_iff, Character.eq_sent_iff_bits]
  · simp only [Txn.differsAtLast_iff, ne_eq, Character.eq_sent_iff]
  · simp [exec, execRequestEchoed, State.txnIn_of ht hp, h]
  · simp [exec, execEchoMismatch, State.txnIn_of ht hp, h]

/-! ### Headers of replies (R14, R15, R189) -/

theorem headerFaulty_iff (b0 b1 b2 b3 : Byte) : headerFaulty b0 b1 b2 b3 = true ↔
    b0 &&& 0xE0#8 ≠ 0#8 ∨ b1 &&& 0xE0#8 ≠ 0#8 ∨ b2 &&& 0xE0#8 ≠ 0#8 ∨ b3 &&& 0x80#8 ≠ 0#8 ∨
      64 < (b3 &&& 0x7F#8).toNat := by
  simp only [headerFaulty, headerReserved, Bool.or_eq_true, bne_iff_ne, decide_eq_true_eq, or_assoc]
  rfl

/-- The first four characters of a run show a header fault. -/
def faultyHeader (cs : List Byte) : Bool :=
  headerFaulty (cs.getD 0 0#8) (cs.getD 1 0#8) (cs.getD 2 0#8) (cs.getD 3 0#8)

/-- Characters of a reply whose header is the first four of `cs`: header, payload and check. -/
def declaredLength (cs : List Byte) : Nat := 6 + headerLength (cs.getD 3 0#8)

theorem replyComplete_iff (cs : List Byte) :
    replyComplete cs = true ↔ 4 ≤ cs.length ∧ faultyHeader cs = false ∧ cs.length = declaredLength cs := by
  rcases cs with _ | ⟨b0, _ | ⟨b1, _ | ⟨b2, _ | ⟨b3, rest⟩⟩⟩⟩
  case cons.cons.cons.cons =>
    simp [replyComplete, faultyHeader, declaredLength]
    intro _
    omega
  all_goals simp [replyComplete]

theorem replyCutShort_iff (cs : List Byte) : replyCutShort cs = true ↔
    1 ≤ cs.length ∧ (4 ≤ cs.length → faultyHeader cs = false ∧ cs.length < declaredLength cs) := by
  rcases cs with _ | ⟨b0, _ | ⟨b1, _ | ⟨b2, _ | ⟨b3, rest⟩⟩⟩⟩
  case cons.cons.cons.cons =>
    simp [replyCutShort, faultyHeader, declaredLength]
    intro _
    omega
  all_goals simp [replyCutShort]

theorem repliesSoFar_iff (cs : List Byte) : repliesSoFar cs = true ↔
    1 ≤ cs.length ∧ (4 < cs.length → faultyHeader cs = false ∧ cs.length ≤ declaredLength cs) := by
  rcases cs with _ | ⟨b0, _ | ⟨b1, _ | ⟨b2, _ | ⟨b3, rest⟩⟩⟩⟩
  case cons.cons.cons.cons =>
    cases rest with
    | nil => simp [repliesSoFar]
    | cons b rest =>
      simp [repliesSoFar, faultyHeader, declaredLength]
      intro _
      omega
  all_goals simp [repliesSoFar]

theorem receiveFaultMet_header_iff (cs : List Byte) :
    receiveFaultMet cs false = true ↔ cs.length = 4 ∧ faultyHeader cs = true := by
  rcases cs with _ | ⟨b0, _ | ⟨b1, _ | ⟨b2, _ | ⟨b3, _ | ⟨b4, rest⟩⟩⟩⟩⟩ <;> simp [receiveFaultMet, faultyHeader]

/-! ### Events of a transaction in flight -/

theorem Txn.frame_length (t : Txn) : t.frame.length = 6 + t.payload.length := by
  simp [Txn.frame, withCheck, headerBytes, lineBytes]
  omega

section
variable {t : Txn} {s : State}

/-- The request read back whole and equal (R11, R13). -/
theorem exec_requestEchoed (ht : s.line.txn = some t) (hr : s.regionsInside = true) (ha : s.areasInside = true)
    (order : EndOrder) (hp : t.phase = .sending) :
    exec (.requestEchoed (sentCharacters t.frame) order) s = .next (echoed t order s) := by
  have he : t.echoedBy (sentCharacters t.frame) = true := by simp [Txn.echoedBy, Txn.sent]
  simp only [exec, execRequestEchoed, State.txnIn_of ht hp, he, if_true, whenAddressed_eq _ hr ha]

/-- No start bit within the window (R13). -/
theorem exec_replyWindowExpiry (ht : s.line.txn = some t) (hr : s.regionsInside = true) (ha : s.areasInside = true)
    (order : EndOrder) (hp : t.phase = .awaiting) :
    exec (.replyWindowExpiry order) s = .next (endTxn t .timeout order (s.elapse s.line.replyWindow.toNat)) := by
  simp only [exec, execReplyWindowExpiry, State.txnIn_of ht hp, whenAddressed_eq _ hr ha]
  rfl

/-- The end of the settling wait (R12, R15). -/
theorem exec_settlingEnd (ht : s.line.txn = some t) (hr : s.regionsInside = true) (ha : s.areasInside = true)
    {w : Nat} (order : EndOrder) (hp : t.phase = .settling) (hw : 20 ≤ w) :
    exec (.settlingEnd w order) s = .next (endTxn t (settlingOutcome t.settling) order (s.elapse w)) := by
  have hw' : Config.quietBits ≤ w := hw
  simp only [exec, execSettlingEnd, State.txnIn_of ht hp, hw', if_true, whenAddressed_eq _ hr ha]

/-- The reply at its declared length (R14, R16). -/
theorem exec_replyReceived (ht : s.line.txn = some t) (hr : s.regionsInside = true) (ha : s.areasInside = true)
    {frame : List Byte} (quiet : Nat) (order : EndOrder) (hp : t.phase = .receiving)
    (hf : replyComplete frame = true) : exec (.replyReceived frame quiet order) s =
      .next (endTxn t (classifyReply t frame) order (s.elapse (10 * frame.length + quiet))) := by
  simp only [exec, execReplyReceived, State.txnIn_of ht hp, hf, if_true, whenAddressed_eq _ hr ha]
  rfl

end

/-- Settles O48: the headers by their first four characters, then each event by its own definition. -/
theorem lineEventsOfATransaction : Obligations.LineEventsOfATransaction := by
  unfold Obligations.LineEventsOfATransaction
  refine ⟨fun cs => ?_, fun t s ht hr ha => ⟨?_, ?_, ?_, ?_, ?_, ?_, ?_, ?_, ?_, ?_⟩⟩
  · dsimp only
    rw [← headerFaulty_iff, Bool.not_eq_true]
    exact ⟨replyComplete_iff cs, replyCutShort_iff cs, repliesSoFar_iff cs, receiveFaultMet_header_iff cs⟩
  · intro hp
    simp only [exec, execGapElapsed, State.txnIn_of ht hp]
    rfl
  · intro order hp hk
    rw [exec_requestEchoed ht hr ha order hp, echoed, if_neg hk]
    rfl
  · intro back c hp hlt hback hne
    rw [← t.frame_length] at hlt
    have hb : t.frame[back.length]? = some t.frame[back.length] := List.getElem?_eq_getElem hlt
    have hd : t.differsAtLast (back ++ [c]) = true :=
      (t.differsAtLast_concat_iff back c).mpr
        ⟨_, hb, hback, fun hc => hne (by rw [sentCharacters_getElem?, hb, hc]; rfl)⟩
    simp only [exec, execEchoMismatch, State.txnIn_of ht hp, hd, if_true, List.length_append]
    rfl
  · intro w hp hw
    have hw' : w ≤ s.window0 := hw
    simp only [exec, execReplyStart, State.txnIn_of ht hp, hw', if_true]
    rfl
  · intro chars bad quiet hp hf
    simp only [exec, execReceiveFault, State.txnIn_of ht hp, hf, if_true]
    rfl
  · exact fun order hp => exec_replyWindowExpiry ht hr ha order hp
  · intro chars quiet order hp hf
    simp only [exec, execQuietLimitExpiry, State.txnIn_of ht hp, hf, if_true, whenAddressed_eq _ hr ha]
    rfl
  · intro w order hp hc hw
    rw [exec_settlingEnd ht hr ha order hp hw, hc]
    rfl
  · intro w order hp hc hw
    rw [exec_settlingEnd ht hr ha order hp hw, hc]
    rfl
  · exact fun frame quiet order hp hf => exec_replyReceived ht hr ha quiet order hp hf

end Sys2Proof.Machine
end

section
/-! SUPPORT. The end of a slot's transaction: each outcome of chapter 8 as one replacement of the slot, the ending of an
exchange, and the slot in ABORT_PENDING; and the statements on them. -/

namespace Sys2Proof.Machine

/-! ### Replacements of a slot -/

@[simp] theorem State.setSlot_slotAt (s : State) (n : Fin 8) : s.setSlot n (s.slotAt n) = s := by
  simp [State.setSlot, State.slotAt]

theorem State.setSlot_offer (s : State) (n : Fin 8) (x : Slot) (b : NoticeBody) :
    (s.setSlot n x).offer b = (s.offer b).setSlot n x := rfl

theorem State.setSlot_updModuleOf (s : State) (n : Fin 8) (x y : Slot) (f : ModuleRecord → ModuleRecord) :
    (s.setSlot n x).updModuleOf y f = (s.updModuleOf y f).setSlot n x := by
  unfold State.updModuleOf
  split <;> rfl

theorem State.setSlot_otherSlotsKept (s : State) (n : Fin 8) (x : Slot) : otherSlotsKept n s (s.setSlot n x) :=
  fun j hj => by rw [State.slotAt_setSlot, if_neg hj]

/-! ### A slot after each outcome -/

/-- After an error (R155). -/
def Slot.errored (e : ErrorKind) (x : Slot) : Slot :=
  { x with run := { x.run with errCount := x.run.errCount + 1, lastError := e, deferred := true } }

/-- After HOLD (R153). -/
def Slot.held (x : Slot) : Slot :=
  { x with run := { x.run with errCount := 0, holdCount := min 255 (x.run.holdCount + 1), deferred := true } }

/-- After ACCEPT of OPEN (R147). -/
def Slot.opened (x : Slot) : Slot :=
  Slot.atPhase (if x.host.declared = 0#16 then .closing else .transferring)
    { x.progressed with run := { x.progressed.run with putSeq := false, fetchSeq := false } }

/-- After ACCEPT of a PUT of `e` bytes (R148). -/
def Slot.afterPut (e : Nat) (bit : Bool) (x : Slot) : Slot :=
  Slot.afterPiece
    { x.progressed with run := { x.progressed.run with bytesMoved := x.run.bytesMoved + e, putSeq := !bit } }

/-- The request in flight removed (R141). -/
def Slot.requestGone (x : Slot) : Slot := { x with inFlight := none }

/-- What an ending leaves of its module (R158). -/
def settleHolder (n : Fin 8) (c : Condition) (tag : Half) : ModuleRecord → ModuleRecord :=
  if c.owesCancel then ModuleRecord.releaseForCancel n tag else ModuleRecord.release n

/-! ### Each outcome, as one replacement -/

theorem slotError_eq (n : Fin 8) (e : ErrorKind) (s : State) : slotError n e s =
    if s.exch.retryLimit.toNat ≤ (s.slotAt n).run.errCount + 1 then
      finishExchange n .retries (s.setSlot n ((s.slotAt n).errored e))
    else s.setSlot n ((s.slotAt n).errored e) := rfl

theorem slotHold_eq (n : Fin 8) (s : State) : slotHold n s =
    if s.holdLimitReached (min 255 ((s.slotAt n).run.holdCount + 1)) then
      finishExchange n .holdExpired (s.setSlot n (s.slotAt n).held)
    else s.setSlot n (s.slotAt n).held := rfl

theorem openAccepted_eq (n : Fin 8) (s : State) : openAccepted n s = s.setSlot n (s.slotAt n).opened := rfl

theorem putAccepted_eq (n : Fin 8) (e : Nat) (bit : Bool) (s : State) : putAccepted n e bit s =
    (s.setArea (s.slotAt n).host.area ((s.areaAt (s.slotAt n).host.area).consume e)).setSlot n
      ((s.slotAt n).afterPut e bit) := rfl

theorem dataReply_eq (n : Fin 8) (e : Nat) (bit : Bool) (r : Reply) (s : State) : dataReply n e bit r s =
    if e < r.payload.length then finishExchange n .longData s
    else if r.seqBit != bit then slotError n .seqSlip s
    else (appendToArea (s.slotAt n).host.area r.payload s).setSlot n ((s.slotAt n).afterData e r.payload.length) := rfl

theorem holdLimitReached_eq_false_iff (s : State) (count : Nat) :
    s.holdLimitReached count = false ↔ s.exch.holdLimit = 0#8 ∨ count < s.exch.holdLimit.toNat := by
  simp [State.holdLimitReached]
  tauto

/-- An ending of chapter 8 as a settled holder, a notice and one replacement (R158). -/
theorem finishExchange_eq (n : Fin 8) (c : Condition) (s : State) : finishExchange n c s =
    ((s.updModuleOf (s.slotAt n) (settleHolder n c (s.slotAt n).host.tag)).offer
      (.slotEnded n c.endState c (s.slotAt n).run.abortRequested)).setSlot n ((s.slotAt n).atEnd c.endState c) := by
  have hx : ∀ f, (s.updModuleOf (s.slotAt n) f).slotAt n = s.slotAt n :=
    fun f => State.slotAt_congr (s.updModuleOf_frame _ f).2.2.2.2.2.1 n
  rw [finishExchange, enterEnded_eq, hx, State.setSlot_offer]
  rfl

/-! ### Taking an outcome -/

theorem SlotState.inPhase_ne_abortPending {st : SlotState} (h : st.inPhase = true) : st ≠ .abortPending := by
  rintro rfl; cases h

/-- An outcome that leaves the slot out of ABORT_PENDING: the request in flight is removed (R141, R146). -/
theorem takeSlotOutcome_settled {n : Fin 8} {q : SlotRequest} {o : TxnOutcome} {s u : State} {y : Slot}
    (hq : (s.slotAt n).inFlight = some q) (ht : (s.slotAt n).takesOutcome = true) (ho : o ≠ .abandoned)
    (hu : applySlotOutcome n q o s = u.setSlot n y) (hy : y.state ≠ .abortPending) :
    takeSlotOutcome n o s = u.setSlot n y.requestGone := by
  simp [takeSlotOutcome, hq, ht, ho, hu, resolveAbort, hy, State.updSlot, State.setSlot_setSlot, Slot.requestGone]

/-- An outcome that leaves the slot in ABORT_PENDING: it enters ABORTED (R163). -/
theorem takeSlotOutcome_aborted {n : Fin 8} {q : SlotRequest} {o : TxnOutcome} {s u : State} {y : Slot}
    (hq : (s.slotAt n).inFlight = some q) (ht : (s.slotAt n).takesOutcome = true) (ho : o ≠ .abandoned)
    (hu : applySlotOutcome n q o s = u.setSlot n y) (hy : y.state = .abortPending) :
    takeSlotOutcome n o s =
      (u.setSlot n (y.atEnd .aborted .none).requestGone).offer (.slotEnded n .aborted .none y.run.abortRequested) := by
  have hr : resolveAbort n (u.setSlot n y) =
      (u.setSlot n (y.atEnd .aborted .none)).offer (.slotEnded n .aborted .none y.run.abortRequested) := by
    simp [resolveAbort, hy, enterEnded_eq, State.setSlot_setSlot]
  simp [takeSlotOutcome, hq, ht, ho, hu, hr, State.setSlot_offer, State.updSlot, State.setSlot_setSlot,
    Slot.requestGone]

/-- A DATA reply of a fitting length under the other sequence bit is a sequence slip (R150). -/
theorem applySlotOutcome_seqSlip (n : Fin 8) {e : Nat} (bit : Bool) {p : List Byte} (s : State) (h : p.length ≤ e) :
    applySlotOutcome n (.fetch e bit) (.reply (some { kind := .data, payload := p, seqBit := !bit })) s =
      slotError n .seqSlip s := by
  have hb : ((!bit) != bit) = true := by cases bit <;> rfl
  simp only [applySlotOutcome, slotReply, dataReply_eq]
  rw [if_neg (by omega), if_pos hb]

theorem Slot.takesOutcome_of_inPhase {x : Slot} (h : x.state.inPhase = true) : x.takesOutcome = true := by
  simp [Slot.takesOutcome, h]

/-- A phase entered out of ABORT_PENDING. -/
theorem Slot.atPhase_eq (p : Phase) {x : Slot} (h : x.state ≠ .abortPending) :
    x.atPhase p = { x with state := p.state, run := { x.run with recordedPhase := p } } := by
  simp [Slot.atPhase, h]

/-- Settles O39: a HOLD or an error below its limit, and an echo fault, are one replacement of the slot. -/
theorem slotRepeatsAfterHoldOrError : Obligations.SlotRepeatsAfterHoldOrError := by
  unfold Obligations.SlotRepeatsAfterHoldOrError
  intro n q header s x error hp hq
  have ht := Slot.takesOutcome_of_inPhase hp
  have hx : x.state ≠ .abortPending := SlotState.inPhase_ne_abortPending hp
  refine ⟨fun hl => ?_, fun hl => ?_, ?_⟩
  · refine takeSlotOutcome_settled (y := x.held) hq ht (by simp) ?_ hx
    have hlim := (holdLimitReached_eq_false_iff s _).mpr hl
    simp only [applySlotOutcome, slotReply, slotHold_eq]
    rw [if_neg (by rw [hlim]; simp)]
  · have he : ∀ e, slotError n e s = s.setSlot n (x.errored e) := fun e => by
      rw [slotError_eq, if_neg (by exact Nat.not_le.mpr hl)]
    have herr : ∀ (o : TxnOutcome) (e : ErrorKind), o ≠ .abandoned → applySlotOutcome n q o s = slotError n e s →
        takeSlotOutcome n o s = error e := fun o e ho h =>
      takeSlotOutcome_settled hq ht ho (h.trans (he e)) hx
    refine ⟨herr _ _ (by simp) rfl, herr _ _ (by simp) rfl, herr _ _ (by simp) rfl, fun e bit p hf hle => ?_⟩
    subst hf
    exact herr _ .seqSlip (by simp) (applySlotOutcome_seqSlip n bit s hle)
  · exact takeSlotOutcome_settled (y := x) hq ht (by simp) (by simp [applySlotOutcome, x]) hx

/-! ### The outcomes that advance a slot -/

theorem Slot.opened_eq {x : Slot} (h : x.state = .opening) : x.opened = { x with
    state := if x.host.declared = 0#16 then .closing else .transferring
    run := { x.run with
      recordedPhase := if x.host.declared = 0#16 then .closing else .transferring
      putSeq := false, fetchSeq := false, holdCount := 0, errCount := 0 } } := by
  have hx : x.state ≠ .abortPending := by rw [h]; simp
  refine (Slot.atPhase_eq _ (by exact hx)).trans ?_
  split <;> rfl

/-- A piece settled in TRANSFERRING: CLOSING when all bytes have moved, else the phase stays (R148, R151). -/
theorem Slot.afterPiece_eq {x : Slot} (hs : x.state = .transferring) (hp : x.run.recordedPhase = .transferring) :
    x.afterPiece = { x with
      state := if x.run.bytesMoved = x.host.declared.toNat then .closing else .transferring
      run := { x.run with
        recordedPhase := if x.run.bytesMoved = x.host.declared.toNat then .closing else .transferring } } := by
  unfold Slot.afterPiece
  split
  · rw [Slot.atPhase_eq _ (by rw [hs]; simp)]
    rfl
  · rw [← hs, ← hp]

theorem Slot.afterPut_eq (e : Nat) (bit : Bool) {x : Slot} (hs : x.state = .transferring)
    (hp : x.run.recordedPhase = .transferring) : x.afterPut e bit = { x with
      state := if x.run.bytesMoved + e = x.host.declared.toNat then .closing else .transferring
      run := { x.run with
        recordedPhase := if x.run.bytesMoved + e = x.host.declared.toNat then .closing else .transferring
        bytesMoved := x.run.bytesMoved + e, putSeq := !bit, holdCount := 0, errCount := 0 } } :=
  Slot.afterPiece_eq hs hp

theorem Slot.afterData_eq (e k : Nat) {x : Slot} (hs : x.state = .transferring)
    (hp : x.run.recordedPhase = .transferring) : x.afterData e k = { x with
      state := if k < e ∨ x.run.bytesMoved + k = x.host.declared.toNat then .closing else .transferring
      run := { x.run with
        recordedPhase := if k < e ∨ x.run.bytesMoved + k = x.host.declared.toNat then .closing else .transferring
        bytesMoved := x.run.bytesMoved + k, fetchSeq := !x.run.fetchSeq, holdCount := 0, errCount := 0,
        short := if k < e then true else x.run.short } } := by
  have hx : x.state ≠ .abortPending := by rw [hs]; simp
  unfold Slot.afterData
  dsimp only
  split
  · next h =>
    refine (Slot.atPhase_eq .closing (by exact hx)).trans ?_
    simp only [h, true_or, if_true]
    rfl
  · next h =>
    refine (Slot.afterPiece_eq (by exact hs) (by exact hp)).trans ?_
    simp only [h, false_or]
    rfl

theorem State.setArea_otherAreasKept (s : State) (a : Fin 4) (r : AreaRecord) : otherAreasKept a s (s.setArea a r) :=
  fun b hb => by rw [State.areaAt_setArea, if_neg hb]

/-- Bytes appended to an area: its record and the data memory. -/
theorem appendToArea_areaAt (a : Fin 4) (bytes : List Byte) (s : State) :
    (appendToArea a bytes s).areaAt a = (s.areaAt a).grow bytes.length ∧
    (appendToArea a bytes s).areas.memory = (s.areaAt a).place s.areas.memory bytes ∧
    otherAreasKept a s (appendToArea a bytes s) :=
  ⟨State.areaAt_setArea_same _ a _, rfl, fun b hb => (State.areaAt_setArea _ b a _).trans (if_neg hb)⟩

/-- Settles O38: each advance is one replacement of the slot, with the area before or after it. -/
theorem slotAdvancesOnAccept : Obligations.SlotAdvancesOnAccept := by
  unfold Obligations.SlotAdvancesOnAccept
  intro n e bit header p s x a r
  refine ⟨fun hs hq => ?_, fun hs hp hq => ?_, fun hs hp hq hle => ?_⟩
  · have hx : x.opened.state ≠ .abortPending := by rw [Slot.opened_eq hs]; dsimp only; split <;> simp
    have ha : applySlotOutcome n .openExchange (.reply (some { kind := .accept, payload := [], seqBit := header })) s =
        s.setSlot n x.opened := openAccepted_eq n s
    rw [takeSlotOutcome_settled hq (Slot.takesOutcome_of_inPhase (x := x) (by rw [hs]; rfl)) (by simp) ha hx,
      Slot.opened_eq hs]
    rfl
  · have hx : (x.afterPut e bit).state ≠ .abortPending := by
      rw [Slot.afterPut_eq e bit hs hp]; dsimp only; split <;> simp
    intro last t
    have ht : t = _ := takeSlotOutcome_settled hq (Slot.takesOutcome_of_inPhase (x := x) (by rw [hs]; rfl)) (by simp)
      (putAccepted_eq n e bit s) hx
    rw [ht]
    refine ⟨?_, State.areaAt_setArea_same _ a _, rfl, State.setSlot_otherSlotsKept _ n _,
      State.setArea_otherAreasKept s a _, rfl, rfl⟩
    rw [State.slotAt_setSlot_same, Slot.afterPut_eq e bit hs hp]
    rfl
  · have hx : (x.afterData e p.length).state ≠ .abortPending := by
      rw [Slot.afterData_eq e p.length hs hp]; dsimp only; split <;> simp
    intro last t
    have hd : dataReply n e bit { kind := .data, payload := p, seqBit := bit } s =
        (appendToArea a p s).setSlot n (x.afterData e p.length) := by
      rw [dataReply_eq, if_neg (Nat.not_lt.mpr hle), if_neg (by simp)]
    have ht : t = _ := takeSlotOutcome_settled hq (Slot.takesOutcome_of_inPhase (x := x) (by rw [hs]; rfl)) (by simp)
      hd hx
    obtain ⟨harea, hmem, hother⟩ := appendToArea_areaAt a p s
    rw [ht]
    refine ⟨?_, harea, hmem, State.setSlot_otherSlotsKept (appendToArea a p s) n _, hother, rfl, rfl⟩
    rw [State.slotAt_setSlot_same, Slot.afterData_eq e p.length hs hp]
    rfl

end Sys2Proof.Machine
end

section
/-! SUPPORT. The endings of a slot that holds its module (R158), and the slot in ABORT_PENDING (R163); and the statements
on them. -/

namespace Sys2Proof.Machine

/-! ### Endings -/

/-- The conditions an ending of chapter 8 gives (Table 6-4, R158). -/
def Condition.endsExchange : Condition → Bool
  | .ok | .refused | .retries | .holdExpired | .longData | .resultBad | .resultError => true
  | .none | .moduleLost | .moduleMismatch | .linkDown | .linkFault => false

theorem Condition.endState_eq (c : Condition) : c.endState = if c = .ok then .done else .failed := by
  cases c <;> rfl

theorem Condition.endState_ended (c : Condition) : c.endState.ended = true := by cases c <;> rfl

theorem Condition.owesCancel_eq_false_iff {c : Condition} (h : c.endsExchange = true) :
    c.owesCancel = false ↔ c = .ok ∨ c = .refused ∨ c = .resultError := by
  cases c <;> simp [Condition.owesCancel, Condition.endsExchange] at h ⊢

theorem SlotState.ended_ne_abortPending {st : SlotState} (h : st.ended = true) : st ≠ .abortPending := by
  rintro rfl; cases h

/-- The holder slot's ending at its module (R82, R158). -/
theorem settleHolder_holder {n : Fin 8} {c : Condition} (tag : Half) {m : ModuleRecord} (hc : c.endsExchange = true)
    (hm : m.holder = .slot n) : settleHolder n c tag m =
      if c = .ok ∨ c = .refused ∨ c = .resultError then { m with holder := .none }
      else { m with holder := .cancelPending tag, cancelHold := 0 } := by
  unfold settleHolder
  cases ho : c.owesCancel with
  | true =>
    rw [if_pos rfl, ModuleRecord.releaseForCancel, if_pos hm, if_neg]
    rw [← Condition.owesCancel_eq_false_iff hc, ho]
    simp
  | false =>
    rw [if_neg (by simp), ModuleRecord.release, if_pos hm, if_pos ((Condition.owesCancel_eq_false_iff hc).mp ho)]

/-- An outcome that ends the exchange: holder, notice and one replacement of the slot (R146, R158). -/
theorem takeSlotOutcome_finished {n : Fin 8} {q : SlotRequest} {o : TxnOutcome} {c : Condition} {s : State} {y : Slot}
    (hq : (s.slotAt n).inFlight = some q) (ht : (s.slotAt n).takesOutcome = true) (ho : o ≠ .abandoned)
    (hu : applySlotOutcome n q o s = finishExchange n c (s.setSlot n y)) :
    takeSlotOutcome n o s = ((s.updModuleOf y (settleHolder n c y.host.tag)).offer
      (.slotEnded n c.endState c y.run.abortRequested)).setSlot n (y.atEnd c.endState c).requestGone := by
  refine takeSlotOutcome_settled hq ht ho ?_ (SlotState.ended_ne_abortPending c.endState_ended)
  rw [hu, finishExchange_eq, State.slotAt_setSlot_same, State.setSlot_updModuleOf, State.setSlot_offer,
    State.setSlot_setSlot]

/-- What an ending leaves, block by block, where the slot holds module `k` (R158). -/
theorem takeSlotOutcome_finished_blocks {n : Fin 8} {k : Fin 30} {q : SlotRequest} {o : TxnOutcome} {c : Condition}
    {s : State} {y : Slot} (hq : (s.slotAt n).inFlight = some q) (ht : (s.slotAt n).takesOutcome = true)
    (ho : o ≠ .abandoned) (hu : applySlotOutcome n q o s = finishExchange n c (s.setSlot n y))
    (hk : y.host.moduleAddr.toNat = moduleAddress k) (hh : (s.moduleAt k).holder = .slot n)
    (hc : c.endsExchange = true) :
    (takeSlotOutcome n o s).slotAt n = (y.atEnd c.endState c).requestGone ∧
    (takeSlotOutcome n o s).moduleAt k = (if c = .ok ∨ c = .refused ∨ c = .resultError then
      { s.moduleAt k with holder := .none }
      else { s.moduleAt k with holder := .cancelPending y.host.tag, cancelHold := 0 }) ∧
    (takeSlotOutcome n o s).notices =
      s.notices.offer s.sched.cycleCounter (.slotEnded n c.endState c y.run.abortRequested) ∧
    (takeSlotOutcome n o s).areas = s.areas ∧ otherSlotsKept n s (takeSlotOutcome n o s) ∧
    otherModulesKept k s (takeSlotOutcome n o s) ∧ (takeSlotOutcome n o s).line = s.line ∧
    (takeSlotOutcome n o s).sched = s.sched := by
  rw [takeSlotOutcome_finished hq ht ho hu]
  have hm : ∀ j, (s.updModuleOf y (settleHolder n c y.host.tag)).moduleAt j =
      if j = k then settleHolder n c y.host.tag (s.moduleAt j) else s.moduleAt j := updModuleOf_moduleAt _ hk
  refine ⟨State.slotAt_setSlot_same _ n _, ?_, by simp, by simp, fun j hj => ?_, fun j hj => (hm j).trans (if_neg hj),
    by simp, by simp⟩
  · rw [← settleHolder_holder _ hc hh]
    exact (hm k).trans (if_pos rfl)
  · rw [State.slotAt_setSlot, if_neg hj]
    exact State.slotAt_congr (by simp) j

/-- A checked RESULT ends the exchange, OK or RESULT_ERROR by its code (R152). -/
theorem applySlotOutcome_result (n : Fin 8) (code r0 r1 d0 d1 : Byte) (header : Bool) (s : State) :
    applySlotOutcome n .close (.reply (some
      { kind := .result
        payload := [0xC3#8, hiByte (s.slotAt n).host.tag, loByte (s.slotAt n).host.tag, code, r0, r1, d0, d1]
        seqBit := header })) s =
    finishExchange n (if code = 0#8 then .ok else .resultError) (s.setSlot n { s.slotAt n with
      run := { (s.slotAt n).run with errCount := 0, holdCount := 0, resultCode := code, residue := halfOf r0 r1,
                                     detail := halfOf d0 d1 } }) := by
  have hc : resultChecked (s.slotAt n).host.tag
      [0xC3#8, hiByte (s.slotAt n).host.tag, loByte (s.slotAt n).host.tag, code, r0, r1, d0, d1] = true := by
    simp [resultChecked, Config.resultMarker]
  simp only [applySlotOutcome, slotReply, resultReply, hc, if_true]
  rfl

/-- A RESULT that fails a check ends the exchange RESULT_BAD (R152). -/
theorem applySlotOutcome_resultBad (n : Fin 8) {p : List Byte} (header : Bool) (s : State)
    (h : ¬ (p.length = 8 ∧ p.getD 0 0#8 = 0xC3#8 ∧ halfOf (p.getD 1 0#8) (p.getD 2 0#8) = (s.slotAt n).host.tag)) :
    applySlotOutcome n .close (.reply (some { kind := .result, payload := p, seqBit := header })) s =
      finishExchange n .resultBad s := by
  have hc : ¬ resultChecked (s.slotAt n).host.tag p = true := by
    simpa only [resultChecked, Bool.and_eq_true, beq_iff_eq, and_assoc, Config.resultMarker] using h
  simp only [applySlotOutcome, slotReply, resultReply, if_neg hc]

/-- An error at the retry limit ends the exchange RETRIES (R155). -/
theorem slotError_limit {n : Fin 8} {s : State} (e : ErrorKind)
    (h : s.exch.retryLimit.toNat ≤ (s.slotAt n).run.errCount + 1) :
    slotError n e s = finishExchange n .retries (s.setSlot n ((s.slotAt n).errored e)) := by
  rw [slotError_eq, if_pos h]

/-- HOLD at the hold limit ends the exchange HOLD_EXPIRED (R153). -/
theorem slotHold_limit {n : Fin 8} {s : State} (h0 : s.exch.holdLimit ≠ 0#8)
    (h : s.exch.holdLimit.toNat ≤ min 255 ((s.slotAt n).run.holdCount + 1)) :
    slotHold n s = finishExchange n .holdExpired (s.setSlot n (s.slotAt n).held) := by
  rw [slotHold_eq, if_pos]
  rw [← Bool.not_eq_false, holdLimitReached_eq_false_iff]
  rintro (he | hl)
  exacts [h0 he, absurd h (by omega)]

/-- Settles O40: every ending is `finishExchange` over a slot whose run-time fields alone have changed. -/
theorem slotEndingsSettleTheHolder : Obligations.SlotEndingsSettleTheHolder := by
  unfold Obligations.SlotEndingsSettleTheHolder
  intro n k q o c run header s x isError hp hq hk hh hend
  have key : ∃ r : SlotRun, applySlotOutcome n q o s = finishExchange n c (s.setSlot n { x with run := r }) ∧
      { r with condition := c, waitArea := false, deferred := false } =
        { run with condition := c, waitArea := false, deferred := false } ∧
      r.abortRequested = x.run.abortRequested ∧ c.endsExchange = true ∧ o ≠ .abandoned := by
    rcases hend with ⟨reason, rfl, rfl, rfl⟩ | ⟨rfl, rfl, hl0, hl, rfl⟩ | ⟨e, he, rfl, hl, rfl⟩ |
      ⟨e, bit, b, p, rfl, hlt, rfl, rfl, rfl⟩ | ⟨p, rfl, rfl, rfl, rfl, hbad⟩ | ⟨code, r0, r1, d0, d1, rfl, rfl, rfl, rfl⟩
    · exact ⟨_, rfl, rfl, rfl, rfl, by simp⟩
    · exact ⟨_, slotHold_limit hl0 hl, rfl, rfl, rfl, by simp⟩
    · have hf : ∀ e, slotError n e s = finishExchange n .retries (s.setSlot n (x.errored e)) :=
        fun e => slotError_limit e hl
      cases e with
      | none => cases he
      | timeout => cases he; exact ⟨_, hf .timeout, rfl, rfl, rfl, by simp⟩
      | corrupt => cases he; exact ⟨_, hf .corrupt, rfl, rfl, rfl, by simp⟩
      | stray => cases he; exact ⟨_, hf .stray, rfl, rfl, rfl, by simp⟩
      | seqSlip =>
        obtain ⟨a, bit, p, rfl, hle, rfl⟩ := he
        exact ⟨_, (applySlotOutcome_seqSlip n bit s hle).trans (hf .seqSlip), rfl, rfl, rfl, by simp⟩
    · refine ⟨x.run, ?_, rfl, rfl, rfl, by simp⟩
      simp only [applySlotOutcome, slotReply, dataReply_eq]
      rw [if_pos hlt, State.setSlot_slotAt]
    · refine ⟨x.run, ?_, rfl, rfl, rfl, by simp⟩
      rw [applySlotOutcome_resultBad n header s hbad, State.setSlot_slotAt]
    · exact ⟨_, applySlotOutcome_result n code r0 r1 d0 d1 header s, rfl, rfl, by split <;> rfl, by simp⟩
  obtain ⟨r, hu, hr, hab, hc, ho⟩ := key
  obtain ⟨hslot, hmod, hnot, hrest⟩ :=
    takeSlotOutcome_finished_blocks hq (Slot.takesOutcome_of_inPhase hp) ho hu hk hh hc
  rw [← c.endState_eq, ← hab, ← hr]
  exact ⟨hslot, hmod, hnot, hrest⟩

/-! ### A slot in ABORT_PENDING -/

/-- The slot in the phase it has recorded (R146). -/
def Slot.inRecordedPhase (x : Slot) : Slot := { x with state := x.run.recordedPhase.state }

/-- A slot in ABORT_PENDING with a recorded phase and abort-requested set (R162). -/
def Slot.abortAwaits (x : Slot) : Prop :=
  x.state = .abortPending ∧ x.run.recordedPhase ≠ .none ∧ x.run.abortRequested = true

/-- A change of a slot that leaves it in ABORT_PENDING, where it moves the recorded phase as it moves the state of a slot
in that phase. -/
def MovesWithAbort (f : Slot → Slot) : Prop :=
  ∀ x : Slot, x.abortAwaits → (f x).abortAwaits ∧ f x.inRecordedPhase = (f x).inRecordedPhase

theorem Phase.state_inPhase {p : Phase} (h : p ≠ .none) : p.state.inPhase = true := by
  cases p
  exacts [absurd rfl h, rfl, rfl, rfl]

theorem Slot.abortAwaits.inPhase {x : Slot} (h : x.abortAwaits) : x.inRecordedPhase.state.inPhase = true :=
  Phase.state_inPhase h.2.1

theorem movesWithAbort_id : MovesWithAbort id := fun _ h => ⟨h, rfl⟩

theorem movesWithAbort_errored (e : ErrorKind) : MovesWithAbort (Slot.errored e) := fun _ h => ⟨h, rfl⟩

theorem movesWithAbort_held : MovesWithAbort Slot.held := fun _ h => ⟨h, rfl⟩

theorem Slot.abortAwaits.atPhase {x : Slot} (h : x.abortAwaits) {p : Phase} (hp : p ≠ .none) :
    (x.atPhase p).abortAwaits ∧ x.inRecordedPhase.atPhase p = (x.atPhase p).inRecordedPhase := by
  have hx := SlotState.inPhase_ne_abortPending h.inPhase
  rw [Slot.atPhase_eq p hx]
  exact ⟨⟨by rw [Slot.atPhase, if_pos h.1], hp, h.2.2⟩, rfl⟩

theorem Slot.abortAwaits.afterPiece {x : Slot} (h : x.abortAwaits) :
    x.afterPiece.abortAwaits ∧ x.inRecordedPhase.afterPiece = x.afterPiece.inRecordedPhase := by
  by_cases hb : x.run.bytesMoved = x.host.declared.toNat
  · have e : x.afterPiece = x.atPhase .closing := if_pos hb
    have e' : x.inRecordedPhase.afterPiece = x.inRecordedPhase.atPhase .closing := if_pos hb
    rw [e, e']
    exact h.atPhase (by simp)
  · have e : x.afterPiece = x := if_neg hb
    have e' : x.inRecordedPhase.afterPiece = x.inRecordedPhase := if_neg hb
    rw [e, e']
    exact ⟨h, rfl⟩

theorem movesWithAbort_opened : MovesWithAbort Slot.opened := fun x h =>
  Slot.abortAwaits.atPhase (x := { x.progressed with run := { x.progressed.run with putSeq := false, fetchSeq := false } })
    h (by split <;> simp)

theorem movesWithAbort_afterPut (e : Nat) (bit : Bool) : MovesWithAbort (Slot.afterPut e bit) := fun x h =>
  Slot.abortAwaits.afterPiece (x := { x.progressed with
    run := { x.progressed.run with bytesMoved := x.run.bytesMoved + e, putSeq := !bit } }) h

theorem movesWithAbort_afterData (e k : Nat) : MovesWithAbort (Slot.afterData e k) := fun x h => by
  unfold Slot.afterData
  dsimp only
  split
  · exact Slot.abortAwaits.atPhase (x := { x.progressed with
      run := { x.progressed.run with bytesMoved := x.run.bytesMoved + k, fetchSeq := !x.run.fetchSeq, short := true } })
      h (by simp)
  · exact Slot.abortAwaits.afterPiece (x := { x.progressed with
      run := { x.progressed.run with bytesMoved := x.run.bytesMoved + k, fetchSeq := !x.run.fetchSeq } }) h

/-- An operation on slot `n` that does to a slot in ABORT_PENDING what it does to one in the recorded phase: both end
alike, or the one stays in ABORT_PENDING with the phase recorded that the other is in (R146, R163). -/
def ResolvesAlike (n : Fin 8) (F : State → State) : Prop :=
  ∀ (s : State) (x : Slot), x.abortAwaits →
    (∃ (u : State) (y : Slot), y.state.ended = true ∧ y.run.abortRequested = true ∧
      F (s.setSlot n x) = u.setSlot n y ∧ F (s.setSlot n x.inRecordedPhase) = u.setSlot n y) ∨
    (∃ (u : State) (y : Slot), y.abortAwaits ∧
      F (s.setSlot n x) = u.setSlot n y ∧ F (s.setSlot n x.inRecordedPhase) = u.setSlot n y.inRecordedPhase)

namespace ResolvesAlike

variable {n : Fin 8} {F G : State → State}

/-- An ending does not look at the slot's state. -/
theorem finish (c : Condition) {f : Slot → Slot} (hf : MovesWithAbort f) :
    ResolvesAlike n (fun s => finishExchange n c (s.setSlot n (f (s.slotAt n)))) := by
  intro s x hx
  obtain ⟨hy, he⟩ := hf x hx
  refine Or.inl ⟨(s.updModuleOf (f x) (settleHolder n c (f x).host.tag)).offer
    (.slotEnded n c.endState c (f x).run.abortRequested), (f x).atEnd c.endState c, c.endState_ended, hy.2.2, ?_, ?_⟩
  · simp only [State.slotAt_setSlot_same, State.setSlot_setSlot, finishExchange_eq, State.setSlot_updModuleOf,
      State.setSlot_offer]
  · simp only [State.slotAt_setSlot_same, State.setSlot_setSlot, finishExchange_eq, State.setSlot_updModuleOf,
      State.setSlot_offer, he]
    rfl

/-- A move of the slot, with a change beside it that looks at the slot's host fields alone. -/
theorem move {f : Slot → Slot} {g : SlotHost → State → State} (hf : MovesWithAbort f)
    (hg : ∀ h s x, g h (s.setSlot n x) = (g h s).setSlot n x) :
    ResolvesAlike n (fun s => (g (s.slotAt n).host s).setSlot n (f (s.slotAt n))) := by
  intro s x hx
  obtain ⟨hy, he⟩ := hf x hx
  refine Or.inr ⟨g x.host s, f x, hy, ?_, ?_⟩
  · simp only [State.slotAt_setSlot_same, hg, State.setSlot_setSlot]
  · simp only [State.slotAt_setSlot_same, hg, State.setSlot_setSlot, he]
    rfl

theorem branch {c : State → Prop} [DecidablePred c]
    (hc : ∀ (s : State) (x : Slot), c (s.setSlot n x.inRecordedPhase) ↔ c (s.setSlot n x)) (hF : ResolvesAlike n F)
    (hG : ResolvesAlike n G) : ResolvesAlike n (fun s => if c s then F s else G s) := by
  intro s x hx
  by_cases h : c (s.setSlot n x)
  · simp only [if_pos h, if_pos ((hc s x).mpr h)]
    exact hF s x hx
  · simp only [if_neg h, if_neg (fun h' => h ((hc s x).mp h'))]
    exact hG s x hx

theorem unchanged : ResolvesAlike n (fun s => s) := by
  have h := move (n := n) (g := fun _ s => s) movesWithAbort_id (fun _ _ _ => rfl)
  simpa only [id, State.setSlot_slotAt] using h

theorem finishAsIs (c : Condition) : ResolvesAlike n (finishExchange n c) := by
  have h := finish (n := n) c movesWithAbort_id
  simpa only [id, State.setSlot_slotAt] using h

theorem slotError (e : ErrorKind) : ResolvesAlike n (slotError n e) := by
  rw [show Machine.slotError n e = _ from funext (slotError_eq n e)]
  refine branch (fun s x => ?_) (finish _ (movesWithAbort_errored e))
    (move (g := fun _ s => s) (movesWithAbort_errored e) (fun _ _ _ => rfl))
  simp [Slot.inRecordedPhase]

theorem slotHold : ResolvesAlike n (slotHold n) := by
  rw [show Machine.slotHold n = _ from funext (slotHold_eq n)]
  refine branch (fun s x => ?_) (finish _ movesWithAbort_held)
    (move (g := fun _ s => s) movesWithAbort_held (fun _ _ _ => rfl))
  simp [Slot.inRecordedPhase, State.holdLimitReached]

theorem slotRefused (b : Byte) : ResolvesAlike n (slotRefused n b) :=
  finish .refused (f := fun x => { x with run := { x.run with refuseReason := b } }) fun _ h => ⟨h, rfl⟩

theorem openAccepted : ResolvesAlike n (openAccepted n) :=
  move (g := fun _ s => s) movesWithAbort_opened (fun _ _ _ => rfl)

theorem putAccepted (e : Nat) (bit : Bool) : ResolvesAlike n (putAccepted n e bit) :=
  move (g := fun h s => s.setArea h.area ((s.areaAt h.area).consume e)) (movesWithAbort_afterPut e bit)
    (fun _ _ _ => rfl)

theorem dataReply (e : Nat) (bit : Bool) (r : Reply) : ResolvesAlike n (dataReply n e bit r) :=
  branch (fun _ _ => Iff.rfl) (finishAsIs .longData) <|
    branch (fun _ _ => Iff.rfl) (slotError .seqSlip) <|
      move (g := fun h => appendToArea h.area r.payload) (movesWithAbort_afterData e r.payload.length) (fun _ _ _ => rfl)

theorem resultReply (p : List Byte) : ResolvesAlike n (resultReply n p) := by
  refine branch (fun s x => ?_) (finish _ (f := Slot.recordResult p) fun _ h => ⟨h, rfl⟩) (finishAsIs .resultBad)
  simp [Slot.inRecordedPhase]

theorem slotReply (q : SlotRequest) (r : Reply) : ResolvesAlike n (slotReply n q r) := by
  unfold Machine.slotReply
  cases r.kind with
  | hold => exact slotHold
  | refuse => exact slotRefused _
  | accept => cases q with
    | openExchange => exact openAccepted
    | put e bit => exact putAccepted e bit
    | fetch => exact unchanged
    | close => exact unchanged
  | data => cases q with
    | fetch e bit => exact dataReply e bit r
    | openExchange => exact unchanged
    | put => exact unchanged
    | close => exact unchanged
  | result => cases q with
    | close => exact resultReply r.payload
    | openExchange => exact unchanged
    | put => exact unchanged
    | fetch => exact unchanged
  | scanReply => exact unchanged
  | ident => exact unchanged

/-- Every outcome of chapter 8 is applied in ABORT_PENDING as in the recorded phase (R146). -/
theorem applySlotOutcome (q : SlotRequest) (o : TxnOutcome) : ResolvesAlike n (applySlotOutcome n q o) := by
  unfold Machine.applySlotOutcome
  match o with
  | .reply (some r) => exact slotReply q r
  | .reply none => exact unchanged
  | .timeout => exact slotError .timeout
  | .corrupt => exact slotError .corrupt
  | .stray => exact slotError .stray
  | .echoFault => exact unchanged
  | .abandoned => exact unchanged

end ResolvesAlike

theorem SlotState.inPhase_not_ended {st : SlotState} (h : st.inPhase = true) : st.ended = false := by
  cases st <;> simp [SlotState.inPhase, SlotState.ended] at h ⊢

/-- ACCEPT of OPEN in ABORT_PENDING: the recorded phase moves, the state stays (R147, R163). -/
theorem Slot.opened_abortPending {x : Slot} (h : x.state = .abortPending) : x.opened = { x with
    run := { x.run with
      recordedPhase := if x.host.declared = 0#16 then .closing else .transferring
      putSeq := false, fetchSeq := false, holdCount := 0, errCount := 0 } } := by
  simp only [Slot.opened, Slot.atPhase, Slot.progressed, h, if_true]

/-- Any outcome in ABORT_PENDING but ABANDONED: an ending stands, every other slot is ABORTED (R163). -/
theorem takeSlotOutcome_abortPending {n : Fin 8} {q : SlotRequest} {o : TxnOutcome} {s : State}
    (hx : (s.slotAt n).abortAwaits) (hq : (s.slotAt n).inFlight = some q) (ho : o ≠ .abandoned) :
    let u := takeSlotOutcome n o (s.setSlot n (s.slotAt n).inRecordedPhase)
    (u.slotAt n).run.abortRequested = true ∧
    (((u.slotAt n).state.ended = true ∧ takeSlotOutcome n o s = u) ∨
     ((u.slotAt n).state.ended = false ∧ takeSlotOutcome n o s =
        (u.setSlot n ((u.slotAt n).atEnd .aborted .none)).offer (.slotEnded n .aborted .none true))) := by
  intro u
  have ht : (s.slotAt n).takesOutcome = true := by simp [Slot.takesOutcome, hx.1]
  have ht' : ((s.setSlot n (s.slotAt n).inRecordedPhase).slotAt n).takesOutcome = true := by
    rw [State.slotAt_setSlot_same]
    exact Slot.takesOutcome_of_inPhase hx.inPhase
  have hq' : ((s.setSlot n (s.slotAt n).inRecordedPhase).slotAt n).inFlight = some q := by
    rw [State.slotAt_setSlot_same]
    exact hq
  rcases ResolvesAlike.applySlotOutcome q o s (s.slotAt n) hx with ⟨w, y, hy, hab, h1, h2⟩ | ⟨w, y, hy, h1, h2⟩ <;>
    rw [State.setSlot_slotAt] at h1
  · have hu : u = _ := takeSlotOutcome_settled hq' ht' ho h2 (SlotState.ended_ne_abortPending hy)
    rw [takeSlotOutcome_settled hq ht ho h1 (SlotState.ended_ne_abortPending hy), hu, State.slotAt_setSlot_same]
    exact ⟨hab, Or.inl ⟨hy, rfl⟩⟩
  · have hu : u = _ := takeSlotOutcome_settled hq' ht' ho h2 (SlotState.inPhase_ne_abortPending hy.inPhase)
    rw [takeSlotOutcome_aborted hq ht ho h1 hy.1, hu, State.slotAt_setSlot_same, State.setSlot_setSlot, hy.2.2]
    exact ⟨hy.2.2, Or.inr ⟨SlotState.inPhase_not_ended hy.inPhase, rfl⟩⟩

/-- Settles O41: the outcome is applied as in the recorded phase, and a slot that it does not end is aborted. -/
theorem abortPendingResolved : Obligations.AbortPendingResolved := by
  unfold Obligations.AbortPendingResolved
  intro n p q s x aborted hs hp hpn hq hab
  have hx : x.abortAwaits := ⟨hs, hp ▸ hpn, hab⟩
  have ht : x.takesOutcome = true := by simp [Slot.takesOutcome, hs]
  have habort : ∀ (o : TxnOutcome) (y : Slot), o ≠ .abandoned → applySlotOutcome n q o s = s.setSlot n y →
      y.state = .abortPending → y.run.abortRequested = true → takeSlotOutcome n o s =
        (s.setSlot n (y.atEnd .aborted .none).requestGone).offer (.slotEnded n .aborted .none true) := by
    intro o y ho hu hy hya
    rw [takeSlotOutcome_aborted hq ht ho hu hy, hya]
  refine ⟨fun o ho => ?_, ?_, fun b hop => ?_, fun b hl => ?_, fun hl => ?_, ?_⟩
  · subst hp
    intro u t
    obtain ⟨habu, ⟨he, hu⟩ | ⟨he, hu⟩⟩ := takeSlotOutcome_abortPending hx hq ho
    · exact ⟨fun _ => ⟨hu, habu⟩, fun he' => absurd (he.symm.trans he') (by simp)⟩
    · exact ⟨fun he' => absurd (he'.symm.trans he) (by simp), fun _ => ⟨hu, habu⟩⟩
  · simp [takeSlotOutcome, show (s.slotAt n).inFlight = some q from hq, State.updSlot, x]
  · subst hop
    rw [habort (.reply (some { kind := .accept, payload := [], seqBit := b })) x.opened (by simp) (openAccepted_eq n s) (by rw [Slot.opened_abortPending hs]; exact hs)
      (by rw [Slot.opened_abortPending hs]; exact hab), Slot.opened_abortPending hs]
    rfl
  · have hlim := (holdLimitReached_eq_false_iff s _).mpr hl
    exact habort _ x.held (by simp) ((slotHold_eq n s).trans (if_neg (by rw [hlim]; simp))) hs hab
  · have he : ∀ e, slotError n e s = s.setSlot n (x.errored e) := fun e =>
      (slotError_eq n e s).trans (if_neg (Nat.not_le.mpr hl))
    exact ⟨habort .timeout _ (by simp) (he .timeout) hs hab, habort .corrupt _ (by simp) (he .corrupt) hs hab,
      habort .stray _ (by simp) (he .stray) hs hab⟩
  · exact habort _ x (by simp) (State.setSlot_slotAt s n).symm hs hab

end Sys2Proof.Machine
end

section
/-! SUPPORT. The end of a transaction: what routing leaves of the scheduler, the images and the areas, and what follows it
by link state, stage and timer; the link-down step at scheduler, images and slots; and the statements on them. -/

namespace Sys2Proof.Machine

/-! ### Routing -/

/-- Routing at the scheduler: the SCAN count, the scan position, the deferred cancels and the slot alone (R52, R58). -/
theorem routeOutcome_sched (t : Txn) (o : TxnOutcome) (s : State) :
    (routeOutcome t o s).sched = { s.sched with
      scanned := (routeOutcome t o s).sched.scanned
      scanPos := (routeOutcome t o s).sched.scanPos
      cancelDeferred := (routeOutcome t o s).sched.cancelDeferred
      forSlot := none } := by
  have hdefer : ∀ k (u : State), (deferCancel k u).sched =
      { u.sched with cancelDeferred := (deferCancel k u).sched.cancelDeferred } := by
    intro k u
    unfold deferCancel
    split <;> rfl
  have hcancel : ∀ k, (takeCancel k o s).sched =
      { s.sched with cancelDeferred := (takeCancel k o s).sched.cancelDeferred } := by
    intro k
    have hsettled : (if ((countOutcome k o s).moduleAt k).state.inService then settleCancel k o (countOutcome k o s)
        else countOutcome k o s).sched = s.sched := by
      split <;> simp
    unfold takeCancel
    dsimp only
    split
    · rw [hdefer, hsettled]
    · rw [hsettled]
  unfold routeOutcome
  dsimp only
  cases moduleIndex t.address with
  | none => rfl
  | some k => cases t.kind with
    | mark => rfl
    | scan => simp [routeTo]
    | probe => simp [routeTo]
    | cancel => simp only [routeTo]; rw [hcancel k]
    | openExchange => simp [routeTo]
    | put => simp [routeTo]
    | fetch => simp [routeTo]
    | close => simp [routeTo]

/-- An outcome with no reply leaves the areas. -/
theorem applySlotOutcome_areas (n : Fin 8) (q : SlotRequest) {o : TxnOutcome} (s : State) (h : ∀ r, o ≠ .reply r) :
    (applySlotOutcome n q o s).areas = s.areas := by
  cases o with
  | reply r => exact absurd rfl (h r)
  | timeout => simp [applySlotOutcome]
  | corrupt => simp [applySlotOutcome]
  | stray => simp [applySlotOutcome]
  | echoFault => rfl
  | abandoned => rfl

theorem takeSlotOutcome_areas (n : Fin 8) {o : TxnOutcome} (s : State) (h : ∀ r, o ≠ .reply r) :
    (takeSlotOutcome n o s).areas = s.areas := by
  unfold takeSlotOutcome
  dsimp only
  split
  · rfl
  · split <;> simp [applySlotOutcome_areas _ _ _ h]

theorem routeSlot_areas (k : Fin 30) {o : TxnOutcome} (s : State) (h : ∀ r, o ≠ .reply r) :
    (routeSlot k o s).areas = s.areas := by
  unfold routeSlot
  split <;> simp [takeSlotOutcome_areas _ _ h]

theorem takeScan_image (k : Fin 30) {o : TxnOutcome} (s : State) (h : ∀ r, o ≠ .reply r) :
    (takeScan k o s).image = s.image := by
  cases o with
  | reply r => exact absurd rfl (h r)
  | timeout => simp [takeScan]
  | corrupt => simp [takeScan]
  | stray => simp [takeScan]
  | echoFault => rfl
  | abandoned => rfl

/-- The routing of an outcome with no reply leaves the images and the areas. -/
theorem routeOutcome_noReply (t : Txn) {o : TxnOutcome} (s : State) (h : ∀ r, o ≠ .reply r) :
    (routeOutcome t o s).image = s.image ∧ (routeOutcome t o s).areas = s.areas := by
  unfold routeOutcome
  dsimp only
  cases moduleIndex t.address with
  | none => exact ⟨rfl, rfl⟩
  | some k => cases t.kind <;> simp [routeTo, takeScan_image _ _ h, routeSlot_areas _ _ h]

/-! ### The link-down step -/

theorem linkDownStep_image (c : Condition) (s : State) : (linkDownStep c s).image = s.image.linkDown := by
  simp [linkDownStep]

theorem linkDownStep_sched (c : Condition) (s : State) : (linkDownStep c s).sched = s.sched.linkDown := by
  simp [linkDownStep]

/-- After the link-down step no slot is in a state that it ends (R126). -/
theorem linkDownStep_slots_ended (c : Condition) (s : State) (n : Fin 8) :
    ((linkDownStep c s).slotAt n).state.endedByLinkDown = false := by
  rw [linkDownStep_slotAt]
  split
  · rfl
  · next h => simpa using h

/-- What the link-down step makes and leaves of every block, but the notices (R36). -/
def takenDown (s t : State) : Prop :=
  t.sched.stage = .none ∧ t.sched.timer = .stopped ∧ t.sched.cycleCounter = s.sched.cycleCounter ∧
  t.sched.record = s.sched.record ∧ t.areas = s.areas ∧ t.image.live = s.image.live ∧
  t.image.active = s.image.active ∧ (∀ k, (t.moduleAt k).holder = .none ∧ (t.moduleAt k).failCount = 0) ∧
  ∀ n, (t.slotAt n).state.endedByLinkDown = false

theorem linkDownStep_takenDown (c : Condition) {s u : State} (hs : u.sched = s.sched) (hi : u.image = s.image)
    (ha : u.areas = s.areas) : takenDown s (linkDownStep c u) := by
  unfold takenDown
  rw [linkDownStep_sched, linkDownStep_image, (linkDownStep_frame c u).2.2.2.1, hs, hi, ha]
  exact ⟨rfl, rfl, rfl, rfl, rfl, rfl, rfl, fun k => by rw [linkDownStep_moduleAt]; exact ⟨rfl, rfl⟩,
    linkDownStep_slots_ended c u⟩

/-- The entry into FAULT: link change, pins, and the link-down step (R35, R36). -/
theorem enterFault_blocks (c : LinkCause) (s : State) :
    (enterFault c s).link = { s.link with state := .fault, lastOld := s.link.state, lastNew := .fault, lastCause := c } ∧
    (enterFault c s).line = { s.line with lde := false, ltx := .idle } ∧ takenDown s (enterFault c s) := by
  have hf := linkDownStep_frame .linkFault (changeLink .fault c (releasePair s))
  exact ⟨hf.2.2.1, hf.2.1, linkDownStep_takenDown .linkFault rfl rfl rfl⟩

/-- The entry into OFF: pins, echo fault count, link change, and the link-down step (R33, R36). -/
theorem enterOff_eq (s : State) : enterOff s = linkDownStep .linkDown { s with
    line := { s.line with lde := false, ltx := .idle, echoFaults := 0 }
    link := { s.link with state := .off, lastOld := s.link.state, lastNew := .off, lastCause := .command }
    notices := (s.notices.offer s.sched.cycleCounter (.linkState s.link.state .off .command)).raise .linkChange } := rfl

theorem enterOff_blocks (s : State) :
    (enterOff s).link = { s.link with
      state := .off, lastOld := s.link.state, lastNew := .off, lastCause := .command } ∧
    (enterOff s).line = { s.line with lde := false, ltx := .idle, echoFaults := 0 } ∧ takenDown s (enterOff s) := by
  rw [enterOff_eq]
  exact ⟨(linkDownStep_frame _ _).2.2.1, (linkDownStep_frame _ _).2.1, linkDownStep_takenDown .linkDown rfl rfl rfl⟩

/-! ### What follows routing -/

/-- The echo limit report comes with the third echo fault in a row (R19, R20). -/
theorem echoLimitMet_routed (t : Txn) (o : TxnOutcome) (s : State) :
    echoLimitMet o (routeOutcome t o (removeTxn o s)) = true ↔ o = .echoFault ∧ 2 ≤ s.line.echoFaults := by
  have hline : (routeOutcome t o (removeTxn o s)).line.echoFaults = echoFaultsAfter o s.line.echoFaults := by
    rw [(routeOutcome_frame t o _).2.1]
    rfl
  simp only [echoLimitMet, hline, Bool.and_eq_true, beq_iff_eq, decide_eq_true_eq, echoFaultsAfter, Config.echoLimit]
  constructor
  · rintro ⟨ho, hc⟩
    rw [if_pos ho] at hc
    exact ⟨ho, by omega⟩
  · rintro ⟨ho, hc⟩
    exact ⟨ho, by rw [if_pos ho]; omega⟩

theorem endTxn_atLimit {t : Txn} {o : TxnOutcome} {s : State} (order : EndOrder)
    (h : o = .echoFault ∧ 2 ≤ s.line.echoFaults) :
    endTxn t o order s = enterFault .echoLimit (routeOutcome t o (removeTxn o s)) := by
  rw [endTxn, afterOutcome, if_pos ((echoLimitMet_routed t o s).mpr h)]

theorem routed_link (t : Txn) (o : TxnOutcome) (s : State) : (routeOutcome t o (removeTxn o s)).link = s.link :=
  (routeOutcome_frame t o (removeTxn o s)).2.2.1

theorem endTxn_stopping {t : Txn} {o : TxnOutcome} {s : State} (order : EndOrder)
    (h : ¬ (o = .echoFault ∧ 2 ≤ s.line.echoFaults)) (hk : s.link.state = .stopping) :
    endTxn t o order s = stopDone (routeOutcome t o (removeTxn o s)) := by
  rw [endTxn, afterOutcome, if_neg (fun e => h ((echoLimitMet_routed t o s).mp e)), routed_link, hk]

theorem endTxn_running {t : Txn} {o : TxnOutcome} {s : State} (order : EndOrder)
    (h : ¬ (o = .echoFault ∧ 2 ≤ s.line.echoFaults)) (hk : s.link.state = .running) :
    endTxn t o order s = decideInOrder order (routeOutcome t o (removeTxn o s)) := by
  rw [endTxn, afterOutcome, if_neg (fun e => h ((echoLimitMet_routed t o s).mp e)), routed_link, hk]

/-! ### The decision by order, stage and timer -/

/-- A timer that expired during the transaction leaves no order to choose (R46, R49). -/
theorem decideInOrder_expired (order : EndOrder) {s : State} (h : s.sched.timer = .expired) :
    decideInOrder order s = nextDecision s := by
  cases order
  · rfl
  · rw [decideInOrder, if_pos h]

/-- In stage SCAN the entry into it changes nothing. -/
theorem enterScan_of_scan {s : State} (h : s.sched.stage = .scan) : enterScan s = s := by
  unfold enterScan
  rw [← h]

theorem nextDecision_mark_expired {s : State} (hs : s.sched.stage = .mark) (h : s.sched.timer = .expired) :
    nextDecision s = overrunCut true (enterScan s) := by
  simp [nextDecision, hs, h]

theorem nextDecision_scan_expired {s : State} (hs : s.sched.stage = .scan) (h : s.sched.timer = .expired) :
    nextDecision s = overrunCut true s := by
  simp [nextDecision, hs, h]

theorem nextDecision_mark {s : State} (hs : s.sched.stage = .mark) (h : s.sched.timer ≠ .expired) :
    nextDecision s = walk (enterScan s) := by
  simp [nextDecision, hs, h]

theorem nextDecision_scan {s : State} (hs : s.sched.stage = .scan) (h : s.sched.timer ≠ .expired) :
    nextDecision s = walk s := by
  simp [nextDecision, hs, h]

/-- Settles O28: echo limit, STOPPING or RUNNING, then by order, stage and timer. -/
theorem transactionEndByStage : Obligations.TransactionEndByStage := by
  unfold Obligations.TransactionEndByStage
  intro t o order s count r inScan u limit
  have hcycle := routeOutcome_cycle t o (removeTxn o s)
  refine ⟨fun hl => endTxn_atLimit order hl, fun hl hk => endTxn_stopping order hl hk, fun hl hk he => ?_,
    fun hl hk he ho => ?_, fun hl hk he ho => ?_, routed_link t o s, hcycle.2, hcycle.1⟩
  · have hu : u = nextDecision r := (endTxn_running order hl hk).trans (decideInOrder_expired order he)
    refine ⟨?_, ?_⟩ <;> rintro (hs | hs) <;> rw [hu]
    · exact nextDecision_mark_expired hs he
    · rw [nextDecision_scan_expired hs he, ← enterScan_of_scan hs]
      rfl
    · simp [nextDecision, hs, he]
    · simp [nextDecision, hs, he]
  · subst ho
    have hu : u = nextDecision r := endTxn_running .decisionFirst hl hk
    refine ⟨?_, fun hs => ?_, fun hs => ?_⟩
    · rintro (hs | hs) <;> rw [hu]
      · exact nextDecision_mark hs he
      · rw [nextDecision_scan hs he, ← enterScan_of_scan hs]
        rfl
    · rw [hu]
      simp [nextDecision, hs, he]
    · rw [hu]
      simp [nextDecision, hs, he, enterRest]
  · subst ho
    have hu : u = decideInOrder .othersFirst r := endTxn_running .othersFirst hl hk
    refine ⟨fun hs => ?_, ?_⟩
    · rw [hu, decideInOrder, if_neg he, if_pos hs]
      rfl
    · rintro (hs | hs | hs) <;> rw [hu, decideInOrder, if_neg he, if_neg (by rw [hs]; simp)]

/-- Settles O50: the third echo fault is the end at the limit, and its link-down step. -/
theorem echoLimitEntersFault : Obligations.EchoLimitEntersFault := by
  unfold Obligations.EchoLimitEntersFault
  intro t w order s ht hp hc hw h2 hk hr ha
  refine ⟨_, exec_settlingEnd ht hr ha order hp hw, ?_⟩
  have hlim : TxnOutcome.echoFault = .echoFault ∧ 2 ≤ (s.elapse w).line.echoFaults := ⟨rfl, h2.ge⟩
  rw [hc, settlingOutcome, endTxn_atLimit order hlim]
  generalize hv : routeOutcome t .echoFault (removeTxn .echoFault (s.elapse w)) = v
  have hline : v.line = { s.line with txn := none, echoFaults := 3, lde := true, ltx := .idle } := by
    rw [← hv, (routeOutcome_frame _ _ _).2.1, removeTxn_line, State.elapse_line, h2]
    rfl
  have hlink : v.link = s.link := hv ▸ routed_link t .echoFault (s.elapse w)
  have hsched : v.sched.cycleCounter = s.sched.cycleCounter ∧ v.sched.record = s.sched.record := by
    rw [← hv, routeOutcome_sched]
    exact ⟨rfl, rfl⟩
  obtain ⟨himage, hareas⟩ : v.image = s.image ∧ v.areas = s.areas :=
    hv ▸ routeOutcome_noReply t (removeTxn .echoFault (s.elapse w)) (by simp)
  obtain ⟨hk', hl', hstage, htimer, hcounter, hrecord, har, hlive, -, hmods, hslots⟩ := enterFault_blocks .echoLimit v
  exact ⟨by rw [hk', hlink], by rw [hl', hline], hstage, htimer, hcounter.trans hsched.1, hrecord.trans hsched.2,
    by rw [hlive, himage], har.trans hareas, fun k => (hmods k).symm, hslots⟩

/-! ### SHUTDOWN -/

/-- The cut of a transaction in flight: no reply is routed, and the pair is released (R18, R34). -/
theorem cutTxn_blocks {s : State} {t : Txn} (ht : s.line.txn = some t) :
    (cutTxn s).line = { s.line with txn := none, lde := false, ltx := .idle } ∧
    (cutTxn s).sched.cycleCounter = s.sched.cycleCounter ∧ (cutTxn s).sched.record = s.sched.record ∧
    (cutTxn s).image = s.image ∧ (cutTxn s).areas = s.areas := by
  have he : cutTxn s = routeOutcome t .abandoned
      { s with line := { s.line with txn := none, lde := false, ltx := .idle } } := by simp only [cutTxn, ht]
  obtain ⟨himage, hareas⟩ := routeOutcome_noReply t
    { s with line := { s.line with txn := none, lde := false, ltx := .idle } } (o := .abandoned) (by simp)
  rw [he, routeOutcome_sched, (routeOutcome_frame _ _ _).2.1, himage, hareas]
  exact ⟨rfl, rfl, rfl, rfl, rfl⟩

/-- SHUTDOWN, taken and answered (R183). -/
theorem exec_shutdown {s : State} (h : s.atCommand .link = true) :
    exec .shutdown s = .next (answered .link 4#8 (takeShutdown s).result (takeShutdown s).state) := by
  have hw := (takeShutdown_frame s).1
  exact congrArg Host.Outcome.next (onCommand_answered h (by rw [hw]) (by rw [hw]))

/-- Settles O17: SHUTDOWN is the entry into OFF, after the cut of a transaction in flight. -/
theorem shutdownTakesLinkOff : Obligations.ShutdownTakesLinkOff := by
  unfold Obligations.ShutdownTakesLinkOff
  intro s hat
  rw [exec_shutdown hat]
  refine ⟨fun hk ht => ?_, fun hk ht => ?_, fun hk => ?_⟩
  · have hcut : cutTxn s = s := by simp only [cutTxn, ht]
    rw [takeShutdown, if_neg hk, hcut, enterOff_eq]
    rfl
  · obtain ⟨t, ht⟩ := Option.ne_none_iff_exists'.mp ht
    obtain ⟨hline, hcounter, hrecord, himage, hareas⟩ := cutTxn_blocks ht
    have hlink : (cutTxn s).link = s.link := (cutTxn_frame s).2.1
    obtain ⟨hk', hl', hstage, htimer, hc, hr, har, hlive, hactive, hdown⟩ := enterOff_blocks (cutTxn s)
    exact ⟨enterOff (cutTxn s), by rw [takeShutdown, if_neg hk]; rfl, by rw [hk', hlink], by rw [hl', hline], hstage,
      htimer, hc.trans hcounter, hr.trans hrecord, har.trans hareas, by rw [hlive, himage], by rw [hactive, himage],
      hdown⟩
  · rw [takeShutdown, if_pos hk]
    rfl

end Sys2Proof.Machine
end

section
/-! SUPPORT. The end of a SCAN and of a MARK: what the decision after it leaves of the line and of the module records; and
the statements on them. -/

namespace Sys2Proof.Machine

/-! ### The echo fault count under a decision -/

@[simp] theorem probeStage_echoFaults (s : State) : (probeStage s).line.echoFaults = s.line.echoFaults := by
  unfold probeStage
  split
  · split <;> rfl
  · rfl

@[simp] theorem startSlot_echoFaults (n : Fin 8) (s : State) :
    (startSlot n s).line.echoFaults = s.line.echoFaults := by
  simp [startSlot]

@[simp] theorem acyclicPick_echoFaults (s : State) : (acyclicPick s).line.echoFaults = s.line.echoFaults := by
  have hx := searchSlots_frame (slotOrder s.sched.rrPtr) s
  unfold acyclicPick
  split
  · split <;> simp
  · split
    · next t n e =>
      have hl : t.line = s.line := by simpa [e] using hx.2.1
      split <;> simp [hl]
    · next t e =>
      have hl : t.line = s.line := by simpa [e] using hx.2.1
      simp [hl]

@[simp] theorem walk_echoFaults (s : State) : (walk s).line.echoFaults = s.line.echoFaults := by
  unfold walk
  split
  · rfl
  · simp [enterAcyclic]

@[simp] theorem overrunCut_echoFaults (late : Bool) (s : State) :
    (overrunCut late s).line.echoFaults = s.line.echoFaults := by
  simp [overrunCut]

theorem nextDecision_echoFaults (s : State) : (nextDecision s).line.echoFaults = s.line.echoFaults := by
  unfold nextDecision
  dsimp only
  (repeat' split) <;> simp

theorem decideInOrder_echoFaults (order : EndOrder) (s : State) :
    (decideInOrder order s).line.echoFaults = s.line.echoFaults := by
  rcases decideInOrder_cases order s with e | ⟨_, ⟨_, e⟩ | ⟨_, e⟩⟩ <;> rw [e]
  · exact nextDecision_echoFaults s
  · simp

/-! ### A module record under a decision -/

/-- A decision keeps a module's state, count and status byte; one out of service keeps its holder and its waiting list,
one refreshed in service its age. -/
theorem decideInOrder_moduleKept (order : EndOrder) (s : State) (k : Fin 30) :
    ((decideInOrder order s).moduleAt k).state = (s.moduleAt k).state ∧
    ((decideInOrder order s).moduleAt k).failCount = (s.moduleAt k).failCount ∧
    ((decideInOrder order s).moduleAt k).status = (s.moduleAt k).status ∧
    ((s.moduleAt k).state.inService = false →
      ((decideInOrder order s).moduleAt k).holder = (s.moduleAt k).holder ∧
      ((decideInOrder order s).moduleAt k).waiting = (s.moduleAt k).waiting) ∧
    ((s.moduleAt k).refreshed = true → ((decideInOrder order s).moduleAt k).age = (s.moduleAt k).age) := by
  have hpick : ∀ {m m' : ModuleRecord}, pickedFrom m m' → m'.state = m.state ∧ m'.failCount = m.failCount ∧
      m'.status = m.status ∧ (m.state.inService = false → m'.holder = m.holder ∧ m'.waiting = m.waiting) ∧
      m'.age = m.age := by
    rintro m m' ⟨he, hout⟩
    refine ⟨by rw [he], by rw [he], by rw [he], fun h => by rw [hout h]; exact ⟨rfl, rfl⟩, by rw [he]⟩
  rcases decideInOrder_moduleAt order s k with h | h <;> obtain ⟨h1, h2, h3, h4, h5⟩ := hpick h
  · exact ⟨h1, h2, h3, h4, fun _ => h5⟩
  · refine ⟨h1, h2, h3, h4, fun hr => h5.trans ?_⟩
    simp [ModuleRecord.aged, hr]

/-! ### The end of a SCAN -/

/-- A SCAN's outcome, routed to its module (R58). -/
theorem routeOutcome_scan {t : Txn} {k : Fin 30} (o : TxnOutcome) (s : State) (hk : t.kind = .scan)
    (ha : t.address = moduleAddress k) :
    routeOutcome t o s = { countScan (takeScan k o s) with
      sched := { (countScan (takeScan k o s)).sched with forSlot := none } } := by
  simp only [routeOutcome, hk, ha, moduleIndex_address, routeTo]

/-- The end of a SCAN in RUNNING that is no echo fault: the decision, after the SCAN's routing. -/
theorem endTxn_scan {t : Txn} {k : Fin 30} {o : TxnOutcome} {s : State} (order : EndOrder) (hk : t.kind = .scan)
    (ha : t.address = moduleAddress k) (hl : s.link.state = .running) (ho : o ≠ .echoFault) :
    ∃ r : State, endTxn t o order s = decideInOrder order r ∧ r.line.echoFaults = s.line.echoFaults ∧
      r.link = s.link ∧ r.window = s.window ∧ r.areas = s.areas ∧
      r.table = (takeScan k o (removeTxn o s)).table ∧ r.exch = (takeScan k o (removeTxn o s)).exch ∧
      r.image = (takeScan k o (removeTxn o s)).image := by
  refine ⟨_, endTxn_running order (fun h => ho h.1) hl, ?_⟩
  rw [routeOutcome_scan o _ hk ha]
  have hf := takeScan_frame k o (removeTxn o s)
  refine ⟨?_, ?_, ?_, ?_, rfl, rfl, rfl⟩
  · show (takeScan k o (removeTxn o s)).line.echoFaults = _
    rw [hf.2.1, removeTxn_line]
    exact if_neg ho
  · exact hf.2.2.1
  · exact hf.1
  · exact hf.2.2.2.2.1

/-- A failure below the threshold (R68). -/
theorem countFailure_below {k : Fin 30} {s : State}
    (h : (s.moduleAt k).failCount + 1 < s.link.threshold.toNat) : countFailure k s =
      s.setModule k { s.moduleAt k with failCount := (s.moduleAt k).failCount + 1, state := .suspect } := by
  rw [countFailure, if_pos h]

/-- A failure at the threshold (R68, R69). -/
theorem countFailure_limit {k : Fin 30} {s : State}
    (h : s.link.threshold.toNat ≤ (s.moduleAt k).failCount + 1) : countFailure k s = enterLost k .failures s := by
  rw [countFailure, if_neg (Nat.not_lt.mpr h)]

/-- A failure leaves the records of other modules. -/
theorem countFailure_other {j k : Fin 30} (s : State) (h : j ≠ k) : (countFailure k s).moduleAt j = s.moduleAt j := by
  unfold countFailure
  dsimp only
  split
  · exact State.moduleAt_setModule_other s _ h
  · rw [enterLost_moduleAt, if_neg h]

/-- Settles O31: the failure is counted at routing, and the decision after it leaves module and slots of it. -/
theorem silentScanCountsOrLosesTheModule : Obligations.SilentScanCountsOrLosesTheModule := by
  unfold Obligations.SilentScanCountsOrLosesTheModule
  intro t k order s ht hp hkind haddr hlink hserv hr ha
  obtain ⟨r, hu, hecho, hrlink, hrwin, hrareas, htable, hexch, himage⟩ :=
    endTxn_scan order hkind haddr (o := .timeout) (s := s.elapse s.line.replyWindow.toNat) hlink (by simp)
  generalize hv : removeTxn .timeout (s.elapse s.line.replyWindow.toNat) = v at htable hexch himage
  have hscan : takeScan k .timeout v = countFailure k v := by
    subst hv
    exact if_pos hserv
  rw [hscan] at htable hexch himage
  have hmod : ∀ j, r.moduleAt j = (countFailure k v).moduleAt j := State.moduleAt_congr htable
  have hslot : ∀ n, r.slotAt n = (countFailure k v).slotAt n := State.slotAt_congr hexch
  have hvm : ∀ j, v.moduleAt j = s.moduleAt j := fun j => by subst hv; rfl
  have hvs : ∀ n, v.slotAt n = s.slotAt n := fun n => by subst hv; rfl
  have hvl : v.link = s.link := by subst hv; rfl
  have hframe := decideInOrder_frame order r
  refine ⟨_, exec_replyWindowExpiry ht hr ha order hp, ?_⟩
  rw [hu]
  refine ⟨?_, (decideInOrder_echoFaults order r).trans hecho, hframe.2.1.trans hrlink, hframe.2.2.1.trans hrareas,
    hframe.1.trans hrwin, fun hlt => ?_, fun hle => ?_, fun j hj => ?_⟩
  · rw [(decideInOrder_live order r).1, himage, (countFailure_frame k v).2.2.2.2.1]
    subst hv
    rfl
  · obtain ⟨hstate, hcount, -⟩ := decideInOrder_moduleKept order r k
    have hm := hmod k
    rw [countFailure_below (by rw [hvm, hvl]; exact hlt), State.moduleAt_setModule_same] at hm
    rw [hstate, hcount, hm, hvm]
    exact ⟨rfl, rfl⟩
  · obtain ⟨hstate, hcount, -, hout, -⟩ := decideInOrder_moduleKept order r k
    have hlost : countFailure k v = enterLost k .failures v := countFailure_limit (by rw [hvm, hvl]; exact hle)
    have hm := hmod k
    rw [hlost, enterLost_moduleAt, if_pos rfl] at hm
    obtain ⟨hholder, hwaiting⟩ := hout (by rw [hm]; rfl)
    rw [hstate, hcount, hholder, hwaiting, hm, hvl]
    refine ⟨rfl, rfl, rfl, rfl, fun n hn => ?_⟩
    have hs := hslot n
    rw [hlost, enterLost_slotAt, hvm, if_pos hn] at hs
    obtain ⟨-, hcond, hst⟩ := decideInOrder_decided order r n
    rw [hcond, hst (by rw [hs]; simp [Slot.atEnd]), hs]
    exact ⟨rfl, rfl⟩
  · obtain ⟨hstate, hcount, -⟩ := decideInOrder_moduleKept order r j
    rw [hstate, hcount, hmod j, countFailure_other v hj, hvm]
    exact ⟨rfl, rfl⟩

/-! ### A good SCAN reply -/

/-- The module record after a good SCAN_REPLY with a status byte (R59, R67, R88). -/
def ModuleRecord.refreshedBy (m : ModuleRecord) (status : Byte) : ModuleRecord :=
  { m with failCount := 0, state := .present, age := 0, refreshed := true, status := status }

/-- The status watch on a record just replaced: a notice where a watched bit differs, then the new byte (R87). -/
theorem watchStatus_setModule (k : Fin 30) (b : Byte) (m : ModuleRecord) (s : State) :
    watchStatus k b (s.setModule k m) = { s.setModule k { m with status := b } with
      notices := if (m.status ^^^ b) &&& m.watchMask = 0#8 then s.notices
        else s.notices.offer s.sched.cycleCounter (.moduleStatus k m.status b) } := by
  have hchange : watchedChange m b = true ↔ ¬ (m.status ^^^ b) &&& m.watchMask = 0#8 := by simp [watchedChange]
  rw [watchStatus, State.moduleAt_setModule_same]
  by_cases hc : (m.status ^^^ b) &&& m.watchMask = 0#8
  · rw [if_neg fun hw => hchange.mp hw hc, if_pos hc, State.updModule, State.moduleAt_setModule_same,
      State.setModule_setModule]
    rfl
  · rw [if_pos (hchange.mpr hc), if_neg hc, State.updModule]
    show ((s.setModule k m).setModule k { (s.setModule k m).moduleAt k with status := b }).offer _ = _
    rw [State.moduleAt_setModule_same, State.setModule_setModule]
    rfl

/-- A good SCAN_REPLY of a module in service, as one replacement of its record, of the live image and of the notice queue
(R59, R87, R93). -/
theorem takeScan_reply {k : Fin 30} (r : Reply) {s : State} (h : (s.moduleAt k).state.inService = true) :
    takeScan k (.reply (some r)) s =
      { s.setModule k ((s.moduleAt k).refreshedBy (r.payload.headD 0#8)) with
        image := { s.image with live := s.image.live.writeBytes (s.moduleAt k).inOffset.toNat (r.payload.drop 1) }
        notices :=
          if ((s.moduleAt k).status ^^^ r.payload.headD 0#8) &&& (s.moduleAt k).watchMask = 0#8 then s.notices
          else s.notices.offer s.sched.cycleCounter
            (.moduleStatus k (s.moduleAt k).status (r.payload.headD 0#8)) } := by
  rw [takeScan, if_pos h]
  exact watchStatus_setModule k _ _ _

/-- Settles O32: the reply's effect in one equation, and the decision after it, which keeps a refreshed record's age. -/
theorem goodScanReplyLands : Obligations.GoodScanReplyLands := by
  unfold Obligations.GoodScanReplyLands
  refine ⟨?_, fun k r s h => takeScan_reply r h⟩
  intro t k s frame idle order r ht hp hkind haddr hlink hserv hr ha hwf hf hclass
  obtain ⟨v, hu, -, hvlink, hvwin, hvareas, htable, -, himage⟩ :=
    endTxn_scan order hkind haddr (o := .reply (some r)) (s := s.elapse (10 * frame.length + idle)) hlink (by simp)
  rw [takeScan_reply r (show ((removeTxn _ (s.elapse _)).moduleAt k).state.inService = true from hserv)]
    at htable himage
  have hm : v.moduleAt k = (s.moduleAt k).refreshedBy (r.payload.headD 0#8) :=
    (State.moduleAt_congr htable k).trans (State.moduleAt_setModule_same _ k _)
  have hlive : v.image.live = s.image.live.writeBytes (s.moduleAt k).inOffset.toNat (r.payload.drop 1) := by
    rw [himage]
    rfl
  obtain ⟨hstate, hcount, hstatus, -, hage⟩ := decideInOrder_moduleKept order v k
  obtain ⟨hlive', hstaging⟩ := decideInOrder_live order v
  obtain ⟨hwin, hlink', hareas, -⟩ := decideInOrder_frame order v
  refine ⟨_, (exec_replyReceived ht hr ha idle order hp hf).trans (by rw [hclass]), ?_⟩
  rw [hu, hstate, hcount, hstatus, hage (by rw [hm]; rfl), hm, hlive', hlive]
  refine ⟨rfl, rfl, rfl, rfl, fun i hi => ?_, fun a hb => ?_, ?_, hlink'.trans hvlink, hareas.trans hvareas,
    hwin.trans hvwin⟩
  · have hi' : i < (r.payload.drop 1).length := by simpa using hi
    rw [Memory.read_writeBytes_inside hwf _ _ i hi']
    simp [List.getElem?_eq_getElem (show i + 1 < r.payload.length by omega)]
  · exact Memory.read_writeBytes_outside hwf _ _ _ (by simpa using hb)
  · rw [hstaging, himage]
    rfl

/-! ### The end of a MARK -/

/-- The state a MARK leaves, ended after a duration and with an echo fault count: stage SCAN, the line released (R43). -/
def markEnded (s : State) (d count : Nat) : State :=
  { s with
    line := { s.line with txn := none, echoFaults := count, lde := true, ltx := .idle }
    sched := { s.sched with timer := s.sched.timer.elapse d, stage := .scan, forSlot := none } }

/-- A broadcast's outcome is no module's (R43, R58). -/
theorem routeOutcome_broadcast {t : Txn} (o : TxnOutcome) (s : State) (h : t.address = 31) :
    routeOutcome t o s = { s with sched := { s.sched with forSlot := none } } := by
  rw [routeOutcome, h]
  rfl

/-- The end of a MARK in RUNNING below the echo limit: the decision in stage MARK. -/
theorem endTxn_mark {t : Txn} {o : TxnOutcome} {s : State} (order : EndOrder) (ha : t.address = 31)
    (hk : s.link.state = .running) (ho : ¬ (o = .echoFault ∧ 2 ≤ s.line.echoFaults)) :
    ∃ r : State, endTxn t o order s = decideInOrder order r ∧ r.sched.stage = s.sched.stage ∧
      r.sched.timer = s.sched.timer ∧ enterScan r = { s with
        line := { s.line with
          txn := none, echoFaults := echoFaultsAfter o s.line.echoFaults, lde := true, ltx := .idle }
        sched := { s.sched with stage := .scan, forSlot := none } } := by
  refine ⟨_, endTxn_running order ho hk, ?_⟩
  rw [routeOutcome_broadcast _ _ ha]
  exact ⟨rfl, rfl, rfl⟩

/-- The decision in stage MARK: the walk, or stage SCAN with the walk left due (R43). -/
theorem decideInOrder_mark {r : State} (hs : r.sched.stage = .mark) (h : r.sched.timer ≠ .expired) :
    decideInOrder .decisionFirst r = walk (enterScan r) ∧ decideInOrder .othersFirst r = enterScan r := by
  refine ⟨nextDecision_mark hs h, ?_⟩
  rw [decideInOrder, if_neg h, if_pos hs]

/-- The overrun at the end of a MARK: what the cut and the late start leave (R46, R48). -/
theorem overrunCut_markEnded (s : State) (d count : Nat) :
    let u := overrunCut true (markEnded s d count)
    u = cycleStart true (cycleEnd .overrun (s.sched.scanLength.toNat - s.sched.scanPos) (markEnded s d count)) ∧
    u.sched.cycleCounter = s.sched.cycleCounter + 1#16 ∧ u.sched.stage = .mark ∧ u.sched.lateStart = true ∧
    u.line.echoFaults = count ∧ u.link = s.link ∧ u.image.live = s.image.live ∧
    u.sched.record = {
      number := s.sched.cycleCounter
      scanned := s.sched.scanned
      cut := s.sched.scanLength.toNat - s.sched.scanPos
      status := .overrun
      late := s.sched.lateStart } := by
  have hsched : (overrunCut true (markEnded s d count)).sched = _ :=
    (cycleStart_sched true _).trans (by rw [cycleEnd_sched])
  refine ⟨rfl, ?_, ?_, ?_, overrunCut_echoFaults _ _, (overrunCut_frame true _).2.1, (overrunCut_live true _).1, ?_⟩ <;>
    rw [hsched] <;> rfl

/-- Settles O47: both ends are the same decision in stage MARK, after a duration and with a count. -/
theorem markEndOpensTheScan : Obligations.MarkEndOpensTheScan := by
  unfold Obligations.MarkEndOpensTheScan
  intro t order s ht hkind haddr hk hstage hr ha ended goesOn
  have decided : ∀ (d count : Nat) (c : Instr) (r : State), exec c s = .next (decideInOrder order r) →
      r.sched.stage = .mark → r.sched.timer = s.sched.timer.elapse d → enterScan r = markEnded s d count →
      goesOn d count c := by
    intro d count c r hc hs htimer hscan
    refine ⟨fun h ho => ?_, fun h ho => ?_, fun h => ?_⟩
    · rw [hc, ho, (decideInOrder_mark hs (htimer ▸ h)).1, hscan]
      rfl
    · rw [hc, ho, (decideInOrder_mark hs (htimer ▸ h)).2, hscan]
      rfl
    · have hexp : r.sched.timer = .expired := htimer.trans h
      rw [hc, decideInOrder_expired order hexp, nextDecision_mark_expired hs hexp, hscan]
      exact ⟨_, rfl, overrunCut_markEnded s d count⟩
  refine ⟨fun hp => ?_, fun w hp hw hw20 hlt => ?_⟩
  · obtain ⟨r, he, hs, htimer, hscan⟩ := endTxn_mark (o := .reply none)
      (s := { s.elapse (10 * t.characters) with
        line := { (s.elapse (10 * t.characters)).line with echoFaults := 0 } }) order haddr hk (by simp)
    refine decided _ 0 _ r ?_ (hs.trans hstage) htimer hscan
    rw [exec_requestEchoed ht hr ha order hp, echoed, if_pos hkind, ← he]
    rfl
  · obtain ⟨r, he, hs, htimer, hscan⟩ := endTxn_mark (o := .echoFault) (s := s.elapse w) order haddr hk
      (fun h => absurd h.2 (Nat.not_le.mpr hlt))
    have hcount : echoFaultsAfter .echoFault s.line.echoFaults = s.line.echoFaults + 1 :=
      (if_pos rfl).trans (Nat.min_eq_right (Nat.succ_le_succ (Nat.le_of_lt hlt)))
    refine decided w _ _ r ?_ (hs.trans hstage) htimer (hscan.trans ?_)
    · rw [exec_settlingEnd ht hr ha order hp hw20, hw, ← he]
      rfl
    · rw [markEnded, ← hcount]
      rfl

end Sys2Proof.Machine
end

section
/-! SUPPORT. The round-robin search and the start of the slot it takes: the judged gates as one update of the slots, the
started slot at every block; and the statement on them. -/

namespace Sys2Proof.Machine

/-! ### The area gate -/

theorem SlotHost.direction_eq_write_iff (h : SlotHost) : h.direction = some .write ↔ h.kind = 1#8 := by
  unfold SlotHost.direction
  split
  · next hk => simp [hk]
  · next hk => split <;> simp [hk]

/-- The effective piece of a slot that names a module (R144). -/
theorem effectivePiece_at {x : Slot} {k : Fin 30} (s : State) (h : x.host.moduleAddr.toNat = moduleAddress k) :
    effectivePiece x s = min x.host.pieceLimit.toNat
      (min (s.moduleAt k).repMax.toNat (x.host.declared.toNat - x.run.bytesMoved)) := by
  rw [effectivePiece, Slot.module, h, moduleIndex_address]

theorem gateMet_write {x : Slot} (s : State) (h : x.host.kind = 1#8) :
    gateMet x s = decide (effectivePiece x s ≤ (s.areaAt x.host.area).fill) := by
  simp [gateMet, SlotHost.direction, h]

theorem gateMet_read {x : Slot} (s : State) (h : x.host.kind = 2#8) :
    gateMet x s = decide (effectivePiece x s ≤ (s.areaAt x.host.area).size - (s.areaAt x.host.area).fill) := by
  have hd : x.host.direction = some .read := by simp [SlotHost.direction, h]
  simp only [gateMet, hd]
  rfl

theorem Slot.gateJudged_iff (x : Slot) : x.gateJudged = true ↔ x.state = .transferring ∧ x.run.deferred = false := by
  simp [Slot.gateJudged]

/-- A slot whose gate is judged is eligible as its gate is met (R53, R145). -/
theorem gateMet_of_judged {n : Fin 8} {s : State} (h : (s.slotAt n).gateJudged = true) :
    gateMet (s.slotAt n) s = slotEligible n s := by
  obtain ⟨hs, hd⟩ := (Slot.gateJudged_iff _).mp h
  simp [slotEligible, hs, hd]

/-! ### Eligibility -/

theorem queuedEligible_iff (n : Fin 8) (x : Slot) (s : State) : queuedEligible n x s = true ↔
    ∃ k : Fin 30, x.host.moduleAddr.toNat = moduleAddress k ∧
      (s.moduleAt k).waiting.head? = some n ∧ (s.moduleAt k).state.inService = true ∧ (s.moduleAt k).holder = .none := by
  unfold queuedEligible
  split
  · next k hk =>
    have hkk := moduleIndex_eq_some.mp hk
    simp only [Bool.and_eq_true, beq_iff_eq, and_assoc]
    refine ⟨fun h => ⟨k, hkk, h⟩, ?_⟩
    rintro ⟨j, hj, h⟩
    have : j = k := Option.some.inj ((moduleIndex_eq_some.mpr hj).symm.trans hk)
    exact this ▸ h
  · next hk =>
    refine ⟨fun h => (Bool.false_ne_true h).elim, ?_⟩
    rintro ⟨j, hj, -⟩
    rw [Slot.module, moduleIndex_eq_some.mpr hj] at hk
    cases hk

/-- Eligibility by state (R53). -/
theorem slotEligible_iff (n : Fin 8) (s : State) : slotEligible n s = true ↔
    ((s.slotAt n).state = .queued ∧ queuedEligible n (s.slotAt n) s = true) ∨
    (((s.slotAt n).state = .opening ∨ (s.slotAt n).state = .closing) ∧ (s.slotAt n).run.deferred = false) ∨
    ((s.slotAt n).state = .transferring ∧ (s.slotAt n).run.deferred = false ∧ gateMet (s.slotAt n) s = true) := by
  unfold slotEligible
  cases hs : (s.slotAt n).state <;> simp [hs]

/-! ### The gates judged -/

/-- The slot with its WAIT_AREA mark as judged (R145). -/
def Slot.marked (b : Bool) (x : Slot) : Slot := { x with run := { x.run with waitArea := b } }

/-- The judged gates change the slots alone. -/
theorem judgeSlots_slots (l : List (Fin 8)) (s : State) :
    ∃ v, judgeSlots l s = { s with exch := { s.exch with slots := v } } := by
  induction l generalizing s with
  | nil => exact ⟨s.exch.slots, rfl⟩
  | cons n l ih =>
    have hn : ∃ v, judgeSlot n s = { s with exch := { s.exch with slots := v } } := by
      unfold judgeSlot
      split
      · exact ⟨_, rfl⟩
      · exact ⟨s.exch.slots, rfl⟩
    obtain ⟨v, hv⟩ := ih (judgeSlot n s)
    obtain ⟨w, hw⟩ := hn
    refine ⟨v, hv.trans ?_⟩
    rw [hw]

theorem judgeSlots_eq (l : List (Fin 8)) (s : State) :
    judgeSlots l s = { s with exch := { s.exch with slots := (judgeSlots l s).exch.slots } } := by
  obtain ⟨v, hv⟩ := judgeSlots_slots l s
  rw [hv]

/-- A slot that is not eligible, after the gates of a list were judged: it waits if its gate was one of them. -/
theorem judgeSlots_passed {l : List (Fin 8)} {s : State} {m : Fin 8} (h : m ∈ l → slotEligible m s = false) :
    (judgeSlots l s).slotAt m =
      if m ∈ l ∧ (s.slotAt m).state = .transferring ∧ (s.slotAt m).run.deferred = false then (s.slotAt m).marked true
      else s.slotAt m := by
  rw [judgeSlots_slotAt]
  by_cases hj : m ∈ l ∧ (s.slotAt m).state = .transferring ∧ (s.slotAt m).run.deferred = false
  · have hg := (Slot.gateJudged_iff _).mpr hj.2
    rw [if_pos ⟨hj.1, hg⟩, if_pos hj, gateMet_of_judged hg, h hj.1]
    rfl
  · rw [if_neg fun e => hj ⟨e.1, (Slot.gateJudged_iff _).mp e.2⟩, if_neg hj]

/-- The eligible slot the search takes: its gate, if it was judged, clears its mark. -/
theorem judgeSlots_taken {l : List (Fin 8)} {s : State} {n : Fin 8} (hn : n ∈ l) (h : slotEligible n s = true) :
    (judgeSlots l s).slotAt n = (s.slotAt n).marked
      (if (s.slotAt n).state = .transferring ∧ (s.slotAt n).run.deferred = false then false
        else (s.slotAt n).run.waitArea) := by
  rw [judgeSlots_slotAt]
  by_cases hj : (s.slotAt n).state = .transferring ∧ (s.slotAt n).run.deferred = false
  · have hg := (Slot.gateJudged_iff _).mpr hj
    rw [if_pos ⟨hn, hg⟩, if_pos hj, gateMet_of_judged hg, h]
    rfl
  · rw [if_neg fun e => hj ((Slot.gateJudged_iff _).mp e.2), if_neg hj]
    rfl

/-! ### The request of a slot -/

/-- The request looks at the slot's state, host fields and progress, and at the module table alone. -/
theorem slotRequestOf_marked (x : Slot) (b : Bool) {s t : State} (h : t.table = s.table) :
    slotRequestOf (x.marked b) t = slotRequestOf x s := by
  have he : effectivePiece (x.marked b) t = effectivePiece x s := by
    simp only [effectivePiece, State.moduleAt, h]
    rfl
  simp only [slotRequestOf, he]
  rfl

/-- The request that a picked slot's state calls for, by the kind of its exchange (R141). -/
theorem slotRequestOf_eq (x : Slot) (s : State) : slotRequestOf x s =
    match x.state with
    | .transferring =>
      if x.host.kind = 1#8 then .put (effectivePiece x s) x.run.putSeq else .fetch (effectivePiece x s) x.run.fetchSeq
    | .closing => .close
    | _ => .openExchange := by
  unfold slotRequestOf
  cases x.state <;> simp only [SlotHost.direction_eq_write_iff]

/-- A PUT or a FETCH of a piece of this length (R144). -/
def SlotRequest.takesPiece (e : Nat) (q : SlotRequest) : Prop :=
  (∀ i bit, q = .put i bit → i = e) ∧ (∀ i bit, q = .fetch i bit → i = e)

theorem slotRequestOf_takesPiece (x : Slot) (s : State) : (slotRequestOf x s).takesPiece (effectivePiece x s) := by
  rw [slotRequestOf_eq]
  split
  · split <;> simp [SlotRequest.takesPiece]
  · simp [SlotRequest.takesPiece]
  · simp [SlotRequest.takesPiece]

/-- The bit times of a slot's request beside the reply window, for its piece (R21, R54). -/
def SlotRequest.bits (block e : Nat) : SlotRequest → Nat
  | .put _ _ => 142 + 10 * e
  | .fetch _ _ => 142 + 10 * e
  | .close => 212
  | .openExchange => 192 + 10 * block

theorem slotCost_eq {n : Fin 8} {s : State} {e : Nat} (h : (slotRequestOf (s.slotAt n) s).takesPiece e) :
    slotCost n s =
      s.line.replyWindow.toNat + (slotRequestOf (s.slotAt n) s).bits (s.slotAt n).host.blockLength.toNat e := by
  unfold slotCost
  dsimp only
  generalize slotRequestOf (s.slotAt n) s = q at h
  obtain ⟨hput, hfetch⟩ := h
  cases q <;> simp only [SlotRequest.bits, requestCost, txnCost, replyAllowance, State.window0, Config.gapBits,
    Config.characterBits]
  case openExchange | close => omega
  case put i bit => have := hput i bit rfl; omega
  case fetch i bit => have := hfetch i bit rfl; omega

/-- The transaction of a slot's request to a module, with the bytes of a PUT (R9, R142). -/
def SlotRequest.started (k : Fin 30) (h : SlotHost) (e : Nat) (bytes : List Byte) : SlotRequest → Txn
  | .put _ bit => { kind := .put, address := moduleAddress k, payload := bytes, seqBit := bit,
                    allowed := [.accept, .hold, .refuse], exactLength := none, phase := .gap, received := [],
                    settling := none }
  | .fetch _ bit => { kind := .fetch, address := moduleAddress k, payload := [BitVec.ofNat 8 e], seqBit := bit,
                      allowed := [.data, .hold, .refuse], exactLength := none, phase := .gap, received := [],
                      settling := none }
  | .close => { kind := .close, address := moduleAddress k, payload := [], seqBit := false,
                allowed := [.result, .hold, .refuse], exactLength := none, phase := .gap, received := [],
                settling := none }
  | .openExchange => { kind := .openExchange, address := moduleAddress k, payload := openPayload h,
                       seqBit := false, allowed := [.accept, .hold, .refuse], exactLength := none,
                       phase := .gap, received := [], settling := none }

/-- The bytes of an area from its oldest byte on (R134, R137). -/
def State.oldestBytes (s : State) (a : Fin 4) (e : Nat) : List Byte :=
  (List.range e).map fun i => s.areas.memory.read ((s.areaAt a).start + ((s.areaAt a).oldest + i) % (s.areaAt a).size)

/-- A request of a slot as the line engine holds it: a PUT of the effective piece takes that many oldest bytes. -/
theorem slotTxn_txn (n : Fin 8) {k : Fin 30} {x : Slot} {q : SlotRequest} {e : Nat} (s : State)
    (hk : x.host.moduleAddr.toNat = moduleAddress k) (hq : q.takesPiece e) :
    (slotTxn n x q s).txn = q.started k x.host e (s.oldestBytes x.host.area e) := by
  cases q with
  | put i bit =>
    obtain rfl := hq.1 i bit rfl
    simp only [slotTxn, Request.txn, SlotRequest.started, hk]
    rfl
  | fetch i bit =>
    obtain rfl := hq.2 i bit rfl
    simp only [slotTxn, Request.txn, SlotRequest.started, hk]
    rfl
  | openExchange | close =>
    simp only [slotTxn, Request.txn, SlotRequest.started, hk]
    rfl

/-! ### The start of a slot -/

theorem leaveQueue_slotAt (n : Fin 8) (s : State) (j : Fin 8) : (leaveQueue n s).slotAt j =
    if j = n ∧ (s.slotAt n).state = .queued then { s.slotAt j with
      state := .opening, run := { (s.slotAt j).run with recordedPhase := .opening } }
    else s.slotAt j := by
  unfold leaveQueue
  split
  · next h => rw [pickFromQueued_slotAt]; simp [h]
  · next h => simp [h]

theorem leaveQueue_moduleAt {n : Fin 8} {s : State} {k : Fin 30}
    (h : (s.slotAt n).host.moduleAddr.toNat = moduleAddress k) (j : Fin 30) : (leaveQueue n s).moduleAt j =
    if j = k ∧ (s.slotAt n).state = .queued then (s.moduleAt j).claim n else s.moduleAt j := by
  unfold leaveQueue
  split
  · next hq => rw [pickFromQueued_moduleAt h]; simp [hq]
  · next hq => simp [hq]

/-- A picked slot sends what its state calls for before it leaves QUEUED: either way OPEN. -/
theorem slotRequestOf_leaveQueue (n : Fin 8) (s : State) :
    slotRequestOf ((leaveQueue n s).slotAt n) (leaveQueue n s) = slotRequestOf (s.slotAt n) s := by
  by_cases hq : (s.slotAt n).state = .queued
  · rw [leaveQueue_slotAt, if_pos ⟨rfl, hq⟩]
    simp [slotRequestOf, hq]
  · rw [leaveQueue, if_neg hq]

/-- The line at the start of a slot: its transaction in phase GAP (R10, R142). -/
theorem startSlot_line (n : Fin 8) (s : State) : (startSlot n s).line = { s.line with
    txn := some (slotTxn n (s.slotAt n) (slotRequestOf (s.slotAt n) s) s).txn
    lde := true
    ltx := .idle } := by
  have hhost : ((leaveQueue n s).slotAt n).host = (s.slotAt n).host := by
    rw [leaveQueue_slotAt]
    split <;> rfl
  have htxn : slotTxn n ((leaveQueue n s).slotAt n) (slotRequestOf (s.slotAt n) s) (leaveQueue n s) =
      slotTxn n (s.slotAt n) (slotRequestOf (s.slotAt n) s) s := by
    have hareas : (leaveQueue n s).areas = s.areas := by simp
    simp only [slotTxn, hhost, State.areaAt, hareas]
  simp [startSlot, slotRequestOf_leaveQueue, htxn]

/-- The scheduler at the start of a slot: the pointer moves to it (R53). -/
theorem startSlot_sched (n : Fin 8) (s : State) :
    (startSlot n s).sched = { s.sched with rrPtr := n, forSlot := some n } := by
  simp [startSlot, slotTxn]

/-- The started slot: out of QUEUED in phase OPENING, with its request in flight (R119, R141). -/
theorem startSlot_own (n : Fin 8) (s : State) : (startSlot n s).slotAt n = { s.slotAt n with
    state := if (s.slotAt n).state = .queued then .opening else (s.slotAt n).state
    run := { (s.slotAt n).run with
      recordedPhase := if (s.slotAt n).state = .queued then .opening else (s.slotAt n).run.recordedPhase }
    inFlight := some (slotRequestOf (s.slotAt n) s) } := by
  rw [startSlot_slotAt, if_pos rfl, slotRequestOf_leaveQueue, leaveQueue_slotAt]
  by_cases hq : (s.slotAt n).state = .queued
  · simp [hq]
  · simp [hq]

theorem startSlot_other {n m : Fin 8} (s : State) (h : m ≠ n) : (startSlot n s).slotAt m = s.slotAt m := by
  rw [startSlot_slotAt, if_neg h, leaveQueue_slotAt, if_neg fun e => h e.1]

/-- The module of a started slot: a slot out of QUEUED claims it (R119). -/
theorem startSlot_moduleAt_named {n : Fin 8} {s : State} {k : Fin 30}
    (h : (s.slotAt n).host.moduleAddr.toNat = moduleAddress k) (j : Fin 30) : (startSlot n s).moduleAt j =
    if j = k ∧ (s.slotAt n).state = .queued then (s.moduleAt j).claim n else s.moduleAt j := by
  rw [State.moduleAt_congr (startSlot_table n s), leaveQueue_moduleAt h]

/-! ### The search -/

/-- The round-robin search with an eligible slot `n`, none before it: the slots before `n` are passed, `n` is taken, and is
started if it fits (R51, R53, R54). -/
theorem acyclicPick_taken {n : Fin 8} {s : State} (hc : cancelCandidate s = none) (hn : slotEligible n s = true)
    (hbefore : ∀ m, (m - s.sched.rrPtr - 1).val < (n - s.sched.rrPtr - 1).val → slotEligible m s = false) :
    ∃ l, acyclicPick s =
        (if slotCost n (judgeSlots l s) ≤ s.budget then startSlot n (judgeSlots l s) else probeStage (judgeSlots l s)) ∧
      (judgeSlots l s).slotAt n = (s.slotAt n).marked
        (if (s.slotAt n).state = .transferring ∧ (s.slotAt n).run.deferred = false then false
          else (s.slotAt n).run.waitArea) ∧
      ∀ m, m ≠ n → (judgeSlots l s).slotAt m =
        if (m - s.sched.rrPtr - 1).val < (n - s.sched.rrPtr - 1).val ∧
            (s.slotAt m).state = .transferring ∧ (s.slotAt m).run.deferred = false then (s.slotAt m).marked true
        else s.slotAt m := by
  obtain ⟨a, b, hab, ha⟩ := slotOrder_split s.sched.rrPtr n
  have hfound := searchSlots_first (b := b) hn fun m hm => hbefore m ((ha m).mp hm)
  have hsched : (judgeSlots (a ++ [n]) s).sched = s.sched := (judgeSlots_frame _ s).2.2.2.1
  refine ⟨a ++ [n], ?_, judgeSlots_taken (by simp) hn, fun m hm => ?_⟩
  · rw [acyclicPick, hc, hab]
    simp only [hfound]
    rw [State.budget, hsched]
    rfl
  · have hmem : m ∈ a ++ [n] ↔ (m - s.sched.rrPtr - 1).val < (n - s.sched.rrPtr - 1).val := by
      rw [← ha m]
      simp [hm]
    rw [judgeSlots_passed fun h => hbefore m (hmem.mp h)]
    exact if_congr (and_congr_left' hmem) rfl rfl

/-- The round-robin search with no eligible slot: every judged gate is unmet, and the stage ends (R51, R53). -/
theorem acyclicPick_noneEligible {s : State} (hc : cancelCandidate s = none) (hall : ∀ n, slotEligible n s = false) :
    acyclicPick s = probeStage (judgeSlots (slotOrder s.sched.rrPtr) s) ∧
    ∀ m, (judgeSlots (slotOrder s.sched.rrPtr) s).slotAt m =
      if (s.slotAt m).state = .transferring ∧ (s.slotAt m).run.deferred = false then (s.slotAt m).marked true
      else s.slotAt m := by
  refine ⟨?_, fun m => ?_⟩
  · simp only [acyclicPick, hc, searchSlots_none fun m _ => hall m]
  · rw [judgeSlots_passed fun _ => hall m]
    exact if_congr (and_iff_right (mem_slotOrder _ m)) rfl rfl

/-- Settles O25: the gate and eligibility by their definitions, then the search at the slot taken and its start. -/
theorem roundRobinPicksAndStartsASlot : Obligations.RoundRobinPicksAndStartsASlot := by
  unfold Obligations.RoundRobinPicksAndStartsASlot
  refine ⟨fun x s k h => ⟨effectivePiece_at s h, fun hk => ?_, fun hk => ?_⟩, fun n s => ?_, fun s hcancel => ?_⟩
  · rw [gateMet_write s hk, effectivePiece_at s h]
  · rw [gateMet_read s hk, effectivePiece_at s h]
  · rw [slotEligible_iff, queuedEligible_iff]
  intro before judged waits
  have hc : cancelCandidate s = none := cancelCandidate_eq_none fun j tag => hcancel j tag
  refine ⟨fun n k hn hbefore hk => ?_, fun hall => ?_⟩
  · intro x e bytes request txn cost passed cleared
    obtain ⟨l, hpick, hown, hothers⟩ := acyclicPick_taken hc hn hbefore
    obtain ⟨hwin, hline, hlink, hsched, htable, himage, hareas, hnotices, hpending⟩ := judgeSlots_frame l s
    have hcalled : slotRequestOf x s = request := slotRequestOf_eq x s
    have hrequest : slotRequestOf ((judgeSlots l s).slotAt n) (judgeSlots l s) = request := by
      rw [hown, slotRequestOf_marked _ _ htable]
      exact hcalled
    have hpiece : request.takesPiece e := hcalled ▸ slotRequestOf_takesPiece x s
    have hcost : slotCost n (judgeSlots l s) = cost := by
      rw [slotCost_eq (hrequest ▸ hpiece), hrequest, hline, hown]
      rfl
    rw [hcost] at hpick
    have hmodule : ∀ j, (judgeSlots l s).moduleAt j = s.moduleAt j := State.moduleAt_congr htable
    have hnamed : ((judgeSlots l s).slotAt n).host.moduleAddr.toNat = moduleAddress k := by rw [hown]; exact hk
    have hstate : ((judgeSlots l s).slotAt n).state = x.state := by rw [hown]; rfl
    refine ⟨fun hfits => ⟨_, hpick.trans (if_pos hfits), ?_, fun m hm => ?_, ?_, fun j hj => ?_, ?_, ?_, ?_⟩,
      fun hover => ⟨_, hpick.trans (if_neg (Nat.not_le.mpr hover)), judgeSlots_eq l s, hown, hothers⟩⟩
    · rw [startSlot_own, hrequest, hstate, hown]
      rfl
    · rw [startSlot_other _ hm]
      exact hothers m hm
    · rw [startSlot_moduleAt_named hnamed, hmodule, hstate]
      exact if_congr (and_iff_right rfl) rfl rfl
    · rw [startSlot_moduleAt_named hnamed, if_neg fun e => hj e.1, hmodule]
    · rw [startSlot_sched, hsched]
    · rw [startSlot_line, hrequest, slotTxn_txn n _ hnamed hpiece, hline, hown]
      have hbytes : (judgeSlots l s).oldestBytes x.host.area e = bytes := by
        rw [State.oldestBytes, State.areaAt, hareas]
        rfl
      exact congrArg (fun b => { s.line with txn := some (request.started k x.host e b), lde := true, ltx := .idle })
        hbytes
    · obtain ⟨hw, hl, hi, ha, hno, -⟩ := startSlot_frame n (judgeSlots l s)
      exact ⟨hi.trans himage, ha.trans hareas, hno.trans hnotices, hl.trans hlink, hw.trans hwin⟩
  · obtain ⟨hpick, hslots⟩ := acyclicPick_noneEligible hc hall
    exact ⟨_, hpick, judgeSlots_eq _ s, hslots⟩

end Sys2Proof.Machine
end

section
/-! SUPPORT. The failure counts of the modules and the states of a quiet link, kept by every effect of every command. -/

namespace Sys2Proof.Machine

/-- The counting law, with no transaction in flight while the link is OFF, CHECKING or FAULT: what the line's law gives of
the quiet link states, and the counting law rests on (R37, R68). -/
def State.countsStand (s : State) : Prop :=
  (s.link.state.modulesQuiet = true → s.line.txn = none) ∧ s.countsLawful

theorem State.lineLawful.quiet {s : State} (h : s.lineLawful) (hk : s.link.state.modulesQuiet = true) :
    s.line.txn = none := by
  obtain ⟨hoff, hchecking, -, -⟩ := h
  cases hs : s.link.state with
  | off => exact (hoff (Or.inl hs)).1
  | checking => exact (hchecking (Or.inl hs)).1
  | fault => exact (hoff (Or.inr hs)).1
  | idle => simp [hs, LinkState.modulesQuiet] at hk
  | running => simp [hs, LinkState.modulesQuiet] at hk
  | stopping => simp [hs, LinkState.modulesQuiet] at hk

/-! ### The counting law of one record -/

/-- State and failure count: what the counting law looks at. -/
def ModuleRecord.standing (m : ModuleRecord) : ModuleState × Nat := (m.state, m.failCount)

theorem ModuleRecord.standing_eq {a b : ModuleRecord} (h : a.standing = b.standing) :
    a.state = b.state ∧ a.failCount = b.failCount := Prod.mk.inj h

theorem ModuleRecord.countLawful_congr {threshold : Nat} {a b : ModuleRecord} (h : a.standing = b.standing)
    (hb : b.countLawful threshold) : a.countLawful threshold := by
  obtain ⟨hstate, hcount⟩ := ModuleRecord.standing_eq h
  unfold ModuleRecord.countLawful at *
  rwa [hstate, hcount]

/-- Outside SUSPECT and LOST a count of 0 is lawful, whatever the threshold. -/
theorem ModuleRecord.countLawful_zero {threshold : Nat} {m : ModuleRecord} (hs : m.state ≠ .suspect)
    (hl : m.state ≠ .lost) (hc : m.failCount = 0) : m.countLawful threshold :=
  ⟨fun h => absurd h hs, fun h => absurd h hl, fun _ _ => hc⟩

theorem ModuleState.quiet_ne {st : ModuleState} (h : st.quiet = true) : st ≠ .suspect ∧ st ≠ .lost := by
  cases st <;> simp [ModuleState.quiet] at h ⊢

theorem ModuleState.linkDown_quiet (st : ModuleState) : st.linkDown.quiet = true := by cases st <;> rfl

theorem ModuleRecord.linkDown_countLawful (threshold : Nat) (m : ModuleRecord) : m.linkDown.countLawful threshold :=
  have h := ModuleState.quiet_ne m.state.linkDown_quiet
  ModuleRecord.countLawful_zero h.1 h.2 rfl

/-- Every change of a record keeps the counting law of its threshold. -/
theorem countLawful_kept (threshold : Nat) : KeptByRecords threshold (ModuleRecord.countLawful threshold) where
  counted _ _ _ := ModuleRecord.countLawful_zero (by simp) (by simp) rfl
  suspect _ _ _ hl := ⟨fun _ => ⟨Nat.le_add_left 1 _, hl⟩, fun h => (by cases h), fun h => absurd rfl h⟩
  lost _ _ _ := ⟨fun h => (by cases h), fun _ => rfl, fun _ h => absurd rfl h⟩
  scanned _ _ _ _ := ModuleRecord.countLawful_zero (by simp) (by simp) rfl
  identified _ _ _ _ _ := ModuleRecord.countLawful_zero (by simp [ModuleRecord.enterPresent])
    (by simp [ModuleRecord.enterPresent]) rfl
  mismatched _ _ _ _ _ _ := ModuleRecord.countLawful_zero (by simp) (by simp) rfl
  found _ _ _ _ := ModuleRecord.countLawful_zero (by simp) (by simp) rfl
  freed _ h := h
  cancelHeld _ _ h _ := h
  aged _ h := h
  linkDown m _ := m.linkDown_countLawful threshold
  append _ _ h _ := h
  remove _ _ h := h
  claim _ _ h _ _ := h
  release _ _ h := by unfold ModuleRecord.release; split <;> exact h
  releaseForCancel _ _ _ h := by unfold ModuleRecord.releaseForCancel; split <;> exact h

/-! ### The law after a change of the whole state -/

section
open KeptByRecords

variable {s t : State}

/-- The law looks at the link state, the threshold, the transaction in flight and the standing of each module. -/
theorem State.countsStand_congr (hl : t.link = s.link) (ht : t.line.txn = s.line.txn)
    (hm : ∀ k, (t.moduleAt k).standing = (s.moduleAt k).standing) (h : s.countsStand) : t.countsStand := by
  obtain ⟨hnone, h1, h7, hcount, hquiet⟩ := h
  unfold State.countsStand State.countsLawful
  rw [hl, ht]
  exact ⟨hnone, h1, h7, fun k => ModuleRecord.countLawful_congr (hm k) (hcount k),
    fun hk k => by rw [(ModuleRecord.standing_eq (hm k)).1]; exact hquiet hk k⟩

theorem State.countsStand_frame (hl : t.link = s.link) (ht : t.line = s.line) (hm : t.table = s.table)
    (h : s.countsStand) : t.countsStand :=
  State.countsStand_congr hl (by rw [ht]) (fun k => by rw [State.moduleAt_congr hm]) h

/-- In IDLE, RUNNING and STOPPING the counting law of every record is all. -/
theorem State.countsStand_awake (hk : t.link.state.modulesQuiet = false) (hl : t.link.threshold = s.link.threshold)
    (h : s.countsStand)
    (hm : atAll (ModuleRecord.countLawful s.link.threshold.toNat) s →
      atAll (ModuleRecord.countLawful s.link.threshold.toNat) t) : t.countsStand := by
  obtain ⟨-, h1, h7, hcount, -⟩ := h
  unfold State.countsStand State.countsLawful
  rw [hk, hl]
  exact ⟨fun e => (by cases e), h1, h7, hm hcount, fun e => (by cases e)⟩

/-- After the link-down mapping the law holds whatever the counts were (R89). -/
theorem State.countsStand_down (hn : t.line.txn = none) (hl : t.link.threshold = s.link.threshold)
    (hm : ∀ k, ∃ m : ModuleRecord, (t.moduleAt k).standing = m.linkDown.standing) (h : s.countsStand) :
    t.countsStand := by
  obtain ⟨-, h1, h7, -, -⟩ := h
  refine ⟨fun _ => hn, by rw [hl]; exact h1, by rw [hl]; exact h7, fun k => ?_, fun _ k => ?_⟩ <;>
    obtain ⟨m, hm⟩ := hm k
  · exact ModuleRecord.countLawful_congr hm (m.linkDown_countLawful _)
  · rw [(ModuleRecord.standing_eq hm).1]
    exact m.state.linkDown_quiet

/-- One record replaced by one that is lawful, and quiet where the old one was. -/
theorem State.countsStand_updModule (k : Fin 30) {f : ModuleRecord → ModuleRecord} (h : s.countsStand)
    (hc : (s.moduleAt k).countLawful s.link.threshold.toNat →
      (f (s.moduleAt k)).countLawful s.link.threshold.toNat)
    (hq : (s.moduleAt k).state.quiet = true → (f (s.moduleAt k)).state.quiet = true) :
    (s.updModule k f).countsStand := by
  obtain ⟨hnone, h1, h7, hcount, hquiet⟩ := h
  exact ⟨hnone, h1, h7, atAll_upd (Q := ModuleRecord.countLawful s.link.threshold.toNat) k hcount (hc (hcount k)),
    fun hk => atAll_upd (Q := fun m => m.state.quiet = true) k (hquiet hk) (hq (hquiet hk k))⟩

/-- A record that leaves SUSPECT and LOST with count 0 is lawful. -/
theorem State.countsStand_settled (k : Fin 30) {f : ModuleRecord → ModuleRecord} (h : s.countsStand)
    (hs : (f (s.moduleAt k)).state ≠ .suspect) (hl : (f (s.moduleAt k)).state ≠ .lost)
    (hc : (f (s.moduleAt k)).failCount = 0)
    (hq : (s.moduleAt k).state.quiet = true → (f (s.moduleAt k)).state.quiet = true) :
    (s.updModule k f).countsStand :=
  State.countsStand_updModule k h (fun _ => ModuleRecord.countLawful_zero hs hl hc) hq

end

/-! ### The effects of the line and of the link -/

theorem State.countsStand.inFlight {s : State} {t : Txn} (h : s.countsStand) (ht : s.line.txn = some t) :
    s.link.state.modulesQuiet = false := by
  cases hk : s.link.state.modulesQuiet with
  | false => rfl
  | true => rw [h.1 hk] at ht; cases ht

theorem setTxn_countsStand {s u : State} {t : Txn} (t' : Txn) (lde : Bool) (ltx : LtxLevel) (h : s.countsStand)
    (ht : s.line.txn = some t) (hl : u.link = s.link) (hm : u.table = s.table) :
    (setTxn t' lde ltx u).countsStand :=
  State.countsStand_awake (by rw [setTxn_link, hl]; exact h.inFlight ht) (by rw [setTxn_link, hl]) h
    (KeptByRecords.atAll_congr hm)

theorem enterFault_countsStand (c : LinkCause) {s u : State} (h : s.countsStand) (hn : u.line.txn = none)
    (hl : u.link.threshold = s.link.threshold) : (enterFault c u).countsStand :=
  State.countsStand_down (enterFault_facts c hn).2.1 (by rw [(enterFault_blocks c u).1]; exact hl)
    (fun k => ⟨u.moduleAt k, congrArg ModuleRecord.standing (linkDownStep_moduleAt _ _ k)⟩) h

/-- Below the echo limit the end of a transaction leaves the link out of OFF, CHECKING and FAULT. -/
theorem endTxn_awake {t : Txn} {o : TxnOutcome} {s : State} (order : EndOrder)
    (h : ¬ (o = .echoFault ∧ 2 ≤ s.line.echoFaults)) (hk : s.link.state.modulesQuiet = false) :
    (endTxn t o order s).link.state.modulesQuiet = false ∧
    (endTxn t o order s).link.threshold = s.link.threshold := by
  have hlink := routed_link t o s
  rw [endTxn, afterOutcome, if_neg (fun e => h ((echoLimitMet_routed t o s).mp e))]
  cases hs : s.link.state with
  | running =>
    simp only [hlink, hs, (decideInOrder_frame _ _).2.1]
    exact ⟨rfl, trivial⟩
  | stopping =>
    obtain ⟨hidle, -, -, -, hthreshold⟩ := stopDone_facts (routed_free t o s).1
    simp only [hlink, hs, hidle, hthreshold]
    exact ⟨rfl, trivial⟩
  | idle => simp only [hlink, hs]; exact ⟨rfl, trivial⟩
  | off => simp [hs, LinkState.modulesQuiet] at hk
  | checking => simp [hs, LinkState.modulesQuiet] at hk
  | fault => simp [hs, LinkState.modulesQuiet] at hk

/-- The end of a transaction in flight: at the echo limit the link-down mapping, else failures counted (R20, R68, R89). -/
theorem endTxn_countsStand {s u : State} {t : Txn} (o : TxnOutcome) (order : EndOrder) (h : s.countsStand)
    (ht : s.line.txn = some t) (hl : u.link = s.link) (hm : u.table = s.table) :
    (endTxn t o order u).countsStand := by
  by_cases hlim : o = .echoFault ∧ 2 ≤ u.line.echoFaults
  · rw [endTxn_atLimit order hlim]
    exact enterFault_countsStand _ h (routed_free t o u).1 (by rw [routed_link, hl])
  · obtain ⟨hk, hthreshold⟩ := endTxn_awake (t := t) order hlim (by rw [hl]; exact h.inFlight ht)
    exact State.countsStand_awake hk (by rw [hthreshold, hl]) h fun hc =>
      (countLawful_kept _).endTxn t o order (by rw [hl]) (KeptByRecords.atAll_congr hm hc)

theorem startLink_countsStand {s : State} (h : s.countsStand) (hk : s.link.state = .off) :
    (startLink s).countsStand := by
  obtain ⟨hnone, h1, h7, hcount, hquiet⟩ := h
  have hoff : s.link.state.modulesQuiet = true := by rw [hk]; rfl
  exact ⟨fun _ => hnone hoff, h1, h7, hcount, fun _ => hquiet hoff⟩

theorem stopLink_countsStand {s : State} (h : s.countsStand) : (stopLink s).countsStand := by
  unfold stopLink
  dsimp only
  split
  · next hn =>
    obtain ⟨hidle, -, -, -, hthreshold⟩ := stopDone_facts (s := changeLink .stopping .command s) (by simpa using hn)
    exact State.countsStand_awake (by rw [hidle]; rfl) (by rw [hthreshold]; rfl) h fun hc =>
      (countLawful_kept _).stopDone (s := changeLink .stopping .command s) hc
  · exact State.countsStand_awake (s := s) rfl rfl h id

theorem shutdown_countsStand {s : State} (h : s.countsStand) : (enterOff (cutTxn s)).countsStand :=
  State.countsStand_down (enterOff_facts (cutTxn_line s)).2.1
    (by rw [(enterOff_blocks (cutTxn s)).1, (cutTxn_frame s).2.1])
    (fun k => ⟨(cutTxn s).moduleAt k, congrArg ModuleRecord.standing (linkDownStep_moduleAt _ _ k)⟩) h

theorem clampOneToSeven_bounds (v : Byte) : 1 ≤ (clampOneToSeven v).toNat ∧ (clampOneToSeven v).toNat ≤ 7 := by
  unfold clampOneToSeven
  split
  · decide
  · split
    · decide
    · omega

theorem putLinkConfig_threshold {v : Byte} {r : Reg} {s : State}
    (h : 1 ≤ s.link.threshold.toNat ∧ s.link.threshold.toNat ≤ 7) :
    1 ≤ (putLinkConfig v r s).link.threshold.toNat ∧ (putLinkConfig v r s).link.threshold.toNat ≤ 7 := by
  unfold putLinkConfig
  split
  exacts [h, h, clampOneToSeven_bounds v, h]

/-- In OFF all counts are 0, and so lawful for whatever threshold is written (R23, R37). -/
theorem putLinkConfig_countsStand (v : Byte) (r : Reg) {s : State} (h : s.countsStand) (hk : s.link.state = .off) :
    (putLinkConfig v r s).countsStand := by
  obtain ⟨-, hline, -, htable, -⟩ := putLinkConfig_frame v r s
  obtain ⟨hnone, h1, h7, hcount, hquiet⟩ := h
  have hoff : s.link.state.modulesQuiet = true := by rw [hk]; rfl
  have hq : ∀ k, ((putLinkConfig v r s).moduleAt k).state.quiet = true := fun k => by
    rw [State.moduleAt_congr htable]
    exact hquiet hoff k
  have hb := putLinkConfig_threshold (v := v) (r := r) ⟨h1, h7⟩
  refine ⟨fun _ => by rw [hline]; exact hnone hoff, hb.1, hb.2, fun k => ?_, fun _ => hq⟩
  obtain ⟨hsuspect, hlost⟩ := ModuleState.quiet_ne (hq k)
  rw [State.moduleAt_congr htable] at *
  exact ModuleRecord.countLawful_zero hsuspect hlost ((hcount k).2.2 hsuspect hlost)

theorem afterExpiry_quiet {s : State} (h : s.link.state.modulesQuiet = true) : afterExpiry s = s := by
  unfold afterExpiry
  cases hk : s.link.state <;> simp [hk, LinkState.modulesQuiet] at h ⊢

theorem afterExpiry_countsStand {s : State} (h : s.countsStand) : (afterExpiry s).countsStand := by
  cases hk : s.link.state.modulesQuiet with
  | true => rw [afterExpiry_quiet hk]; exact h
  | false =>
    have hl := (afterExpiry_frame s).2.1
    exact State.countsStand_awake (by rw [hl]; exact hk) (by rw [hl]) h fun hc => (countLawful_kept _).afterExpiry hc

/-! ### The effects of commands on slots -/

theorem updModuleOf_standing (s : State) (x : Slot) {f : ModuleRecord → ModuleRecord}
    (hf : ∀ m, (f m).standing = m.standing) (k : Fin 30) :
    ((s.updModuleOf x f).moduleAt k).standing = (s.moduleAt k).standing := by
  unfold State.updModuleOf
  split
  · rw [State.moduleAt_updModule]
    split
    exacts [hf _, rfl]
  · rfl

theorem ModuleRecord.releaseForCancel_standing (n : Fin 8) (tag : Half) (m : ModuleRecord) :
    (m.releaseForCancel n tag).standing = m.standing := by
  unfold ModuleRecord.releaseForCancel
  split <;> rfl

theorem enqueueSlot_standing (n : Fin 8) (s : State) (k : Fin 30) :
    ((enqueueSlot n s).moduleAt k).standing = (s.moduleAt k).standing :=
  updModuleOf_standing (s.updSlot n _) _ (f := ModuleRecord.append n) (fun _ => rfl) k

theorem postSlot_standing (n : Fin 8) (s : State) (k : Fin 30) :
    ((postSlot n s).moduleAt k).standing = (s.moduleAt k).standing := by
  rw [postSlot, enqueueSlot_standing, State.moduleAt_congr (bindArea_kept n s).1]

theorem retireSlot_standing (n : Fin 8) (s : State) (k : Fin 30) :
    ((retireSlot n s).moduleAt k).standing = (s.moduleAt k).standing := by
  rw [State.moduleAt_congr (retireSlot_table n s)]
  unfold oweCancel
  dsimp only
  split
  · exact updModuleOf_standing s _ (ModuleRecord.releaseForCancel_standing n _) k
  · rfl

theorem abortQueued_standing (n : Fin 8) (s : State) (k : Fin 30) :
    ((abortQueued n s).moduleAt k).standing = (s.moduleAt k).standing := by
  rw [abortQueued, abortInPhase_moduleAt]
  exact updModuleOf_standing s _ (f := ModuleRecord.remove n) (fun _ => rfl) k

/-! ### Every effect -/

theorem ModuleRecord.putField_standing (v : Byte) (r : Reg) (m : ModuleRecord) :
    (m.putField v r).standing = m.standing := by
  unfold ModuleRecord.putField
  split <;> rfl

theorem writePlain_moduleAt (v : Byte) (r : Reg) (s : State) (k : Fin 30) :
    (writePlain v r s).moduleAt k = s.moduleAt k := by
  unfold writePlain
  split
  · unfold writeSubject
    split
    · split <;> rfl
    · split <;> rfl
    · split <;> rfl
    all_goals rfl
  all_goals rfl

/-- Every effect of every command keeps the counting law. -/
theorem countsStand_kept : KeptByEffects State.countsStand where
  powerOn s _ := by
    have hthreshold : 1 ≤ State.reset.link.threshold.toNat ∧ State.reset.link.threshold.toNat ≤ 7 := by decide
    refine ⟨fun _ => rfl, hthreshold.1, hthreshold.2, fun k => ?_, fun _ k => ?_⟩ <;> rw [State.reset_moduleAt]
    · exact ModuleRecord.countLawful_zero (by decide) (by decide) rfl
    · rfl
  platform s h := State.countsStand_down (s := s) rfl rfl
    (fun k => ⟨s.moduleAt k, by rw [platformValues_moduleAt]; rfl⟩) h
  window _ _ h := h
  pending _ _ h := h
  windowEvent _ h := h
  plain v r s h := State.countsStand_congr (by simp) (by simp) (fun k => by rw [writePlain_moduleAt]) h
  start _ h hk := startLink_countsStand h hk
  run s h _ := State.countsStand_awake (by rw [(cycleStart_frame _ _).2.1]; rfl)
    (by rw [(cycleStart_frame _ _).2.1]; rfl) h (KeptByRecords.cycleStart false (s := changeLink .running .command s))
  stop _ h _ := stopLink_countsStand h
  shutdown _ h _ := shutdown_countsStand h
  linkConfig v r _ h hk := putLinkConfig_countsStand v r h hk
  cycleLength v r s h _ := State.countsStand_frame (by simp) (by simp) (by simp) h
  scanList v r s h _ := State.countsStand_frame (by simp) (by simp) (by simp) h
  searchVacant _ _ h _ := h
  moduleField v r s h _ := State.countsStand_updModule _ h
    (ModuleRecord.countLawful_congr (ModuleRecord.putField_standing v r _))
    (fun hq => by rw [(ModuleRecord.standing_eq (ModuleRecord.putField_standing v r _)).1]; exact hq)
  expect _ h _ _ := State.countsStand_settled _ h (by simp [ModuleRecord.enterExpected])
    (by simp [ModuleRecord.enterExpected]) rfl (fun _ => rfl)
  adopt s h ha _ _ := State.countsStand_settled _ h (by simp [ModuleRecord.enterPresent])
    (by simp [ModuleRecord.enterPresent]) rfl (fun hq => absurd ha (by
      change s.selModule.state.quiet = true at hq
      revert hq
      cases s.selModule.state <;> simp [ModuleState.quiet, ModuleState.adoptable]))
  forget _ h _ _ := State.countsStand_settled _ h (by simp [ModuleRecord.setAside]) (by simp [ModuleRecord.setAside])
    rfl (fun _ => rfl)
  disable _ h _ _ := State.countsStand_settled _ h (by simp [ModuleRecord.setAside]) (by simp [ModuleRecord.setAside])
    rfl (fun _ => rfl)
  enable s h hd := by
    have ⟨_, _, _, hcount, _⟩ := h
    have hne : s.selModule.state ≠ .suspect ∧ s.selModule.state ≠ .lost := by rw [hd]; decide
    have hzero : s.selModule.failCount = 0 := (hcount _).2.2 hne.1 hne.2
    refine State.countsStand_settled _ h ?_ ?_ hzero fun _ => ?_ <;> dsimp only <;> split <;> simp [ModuleState.quiet]
  staging v r s h := State.countsStand_frame (by simp) (by simp) (by simp) h
  imageFlags _ _ h _ _ _ _ _ _ := h
  slotField _ _ _ h _ := h
  limit v r s h _ := State.countsStand_frame (by simp) (by simp) (by simp) h
  post s h _ _ _ _ := State.countsStand_congr (by simp) (by simp) (postSlot_standing _ s) h
  retire s h _ := State.countsStand_congr (by simp) (by simp) (retireSlot_standing _ s) h
  restart s h _ _ := State.countsStand_congr (by simp) (by simp) (enqueueSlot_standing _ (clearRun _ s)) h
  abortQueued s h _ := State.countsStand_congr (by simp) (by simp) (abortQueued_standing _ s) h
  abortInFlight _ h _ _ := h
  abortInPhase _ h _ _ := h
  resumeQueued s h _ _ _ := State.countsStand_congr (by simp) (by simp) (enqueueSlot_standing _ (s.updSlot _ _)) h
  resumePhase _ h _ _ := h
  staged v r s h := State.countsStand_frame (by simp) (by simp) (by simp) h
  configure _ h _ _ := h
  flush _ h _ := h
  portWrite _ _ h _ _ _ := h
  portRead _ h _ _ _ := h
  pop _ h _ := h
  clearLost _ h := h
  clearing _ _ h := h
  intEnable _ _ h := h
  attnEnable _ _ h := h
  pulseStart _ h _ := h
  pulseEnd _ h := h
  checkPassed s h _ := State.countsStand_awake (s := s) rfl rfl h id
  checkFailed _ _ h hk := enterFault_countsStand _ h (h.1 (by rw [hk]; rfl)) rfl
  expiry _ s h _ := afterExpiry_countsStand (s := { s with sched := { s.sched with timer := .expired } }) h
  gap _ _ h ht _ := setTxn_countsStand _ _ _ h ht rfl rfl
  settle _ _ _ _ _ h ht _ := setTxn_countsStand _ _ _ h ht rfl rfl
  await _ _ _ h ht _ _ := setTxn_countsStand _ _ _ h ht rfl rfl
  receive _ _ _ h ht _ := setTxn_countsStand _ _ _ h ht rfl rfl
  markEnd _ _ order _ h _ _ ht _ _ := endTxn_countsStand _ order h ht rfl rfl
  txnEnd _ o _ order _ h _ _ ht _ _ _ := endTxn_countsStand o order h ht rfl rfl
  due s h _ _ hd := by
    have hrun : s.link.state = .running := by
      simp only [State.decisionDue, Bool.and_eq_true, beq_iff_eq] at hd
      exact hd.1.1
    have hl := (nextDecision_frame s).2.1
    exact State.countsStand_awake (by rw [hl, hrun]; rfl) (by rw [hl]) h fun hc => (countLawful_kept _).nextDecision hc

/-- Settles O59: the law of the line gives a quiet link no transaction, and with that every effect keeps the counts. -/
theorem failureCountLawKept : Obligations.FailureCountLawKept := by
  unfold Obligations.FailureCountLawKept
  intro s t hline hcounts hstep
  exact (step_keeps countsStand_kept ⟨hline.quiet, hcounts⟩ hstep).2

end Sys2Proof.Machine
end

section
/-! SUPPORT. The commands and events of the link controller, the expiry of the cycle timer, and the two entries out of
cycling, the STOP_DONE entry and the link-down step; and the statements on them. -/

namespace Sys2Proof.Machine

/-! ### START, RUN and STOP, taken and answered (R183) -/

theorem exec_start {s : State} (h : s.atCommand .link = true) :
    exec .start s = .next (answered .link 1#8 (takeStart s).result (takeStart s).state) := by
  have hw := (takeStart_frame s).1
  exact congrArg Host.Outcome.next (onCommand_answered h (by rw [hw]) (by rw [hw]))

theorem exec_run {s : State} (h : s.atCommand .link = true) :
    exec .run s = .next (answered .link 2#8 (takeRun s).result (takeRun s).state) := by
  have hw := (takeRun_frame s).1
  exact congrArg Host.Outcome.next (onCommand_answered h (by rw [hw]) (by rw [hw]))

theorem exec_stop {s : State} (h : s.atCommand .link = true) :
    exec .stop s = .next (answered .link 3#8 (takeStop s).result (takeStop s).state) := by
  have hw := (takeStop_frame s).1
  exact congrArg Host.Outcome.next (onCommand_answered h (by rw [hw]) (by rw [hw]))

/-- Settles O13: START in OFF is the change to CHECKING over the loaded configuration and the driven pair. -/
theorem startBeginsLineCheck : Obligations.StartBeginsLineCheck := by
  unfold Obligations.StartBeginsLineCheck
  intro s hat
  rw [exec_start hat]
  refine ⟨fun hk => ?_, fun hk => ?_⟩
  · rw [takeStart, if_pos hk, ← hk]
    rfl
  · rw [takeStart, if_neg hk]
    rfl

/-- Settles O14: each end of the line check is its change of link state, the failed one with the link-down step. -/
theorem lineCheckEnds : Obligations.LineCheckEnds := by
  unfold Obligations.LineCheckEnds
  intro s hk
  refine ⟨?_, fun highs hh => ?_⟩
  · refine congrArg Host.Outcome.next ((if_pos hk).trans ?_)
    rw [← hk]
    rfl
  · refine congrArg Host.Outcome.next ((if_pos ⟨hk, hh⟩).trans ?_)
    rw [← hk]
    rfl

/-- Settles O15: RUN in IDLE is the change to RUNNING and then the cycle start. -/
theorem runStartsFirstCycle : Obligations.RunStartsFirstCycle := by
  unfold Obligations.RunStartsFirstCycle
  intro s hat
  rw [exec_run hat]
  refine ⟨fun hk => ?_, fun hk => ?_⟩
  · obtain ⟨-, hlink, htable, hareas, -⟩ := cycleStart_frame false (changeLink .running .command s)
    refine ⟨cycleStart false (changeLink .running .command s), ?_, ?_, ?_, ?_, ?_, ?_, htable, hareas⟩
    · rw [takeRun, if_pos hk]
      rfl
    · rw [← hk]
      rfl
    · rw [hlink]
      rfl
    · rw [cycleStart_sched]
    · rw [cycleStart_sched]
      rfl
    · rw [cycleStart_line]
      rfl
  · rw [takeRun, if_neg hk]
    rfl

/-! ### The expiry of the cycle timer (R40) -/

theorem exec_cycleTimerExpiry {s : State} {r : Nat} (h : s.sched.timer = .running r) :
    exec .cycleTimerExpiry s = .next (afterExpiry { s with sched := { s.sched with timer := .expired } }) := by
  simp only [exec, execCycleTimerExpiry, h]

/-- Settles O22: by link state, transaction in flight and stage, as the table of R40 lists them. -/
theorem timerExpiryByStage : Obligations.TimerExpiryByStage := by
  unfold Obligations.TimerExpiryByStage
  intro r s hr e
  rw [exec_cycleTimerExpiry hr]
  refine ⟨fun hk => ?_, fun hk ht => ?_, fun hk ht => ⟨fun hs => ?_, fun hs => ?_⟩⟩
  · simp only [afterExpiry, hk]
    rfl
  · simp only [afterExpiry, hk, if_pos (Option.isSome_iff_ne_none.mpr ht)]
    rfl
  · rcases hs with hs | hs | hs <;> simp [afterExpiry, hk, ht, hs, e]
  · rcases hs with hs | hs <;> simp [afterExpiry, hk, ht, hs, e, overrunCut, State.entriesLeft]

/-! ### The link-down step at its owners (R36) -/

/-- The states that the link-down step leaves are FREE, DONE and FAILED (R126). -/
theorem SlotState.endedByLinkDown_eq_false_iff (st : SlotState) :
    st.endedByLinkDown = false ↔ st = .free ∨ st = .done ∨ st = .failed := by
  cases st <;> simp [SlotState.endedByLinkDown]

theorem linkDownStep_notices (c : Condition) (s : State) : (linkDownStep c s).notices =
    s.notices.offerAll s.sched.cycleCounter (allSlots.filterMap (downNotice c s)) := by
  have hdown : downNotice c (mapModulesDown s) = downNotice c s := rfl
  unfold linkDownStep
  dsimp only
  rw [failSlotsDown_notices c (by decide), mapModulesDown_notices, mapModulesDown_sched, hdown]

theorem linkDownStep_subject (c : Condition) (s : State) :
    (linkDownStep c s).table.subject = s.table.subject := by
  simp [linkDownStep]

/-- Settles O18: each owner's part of the step by its own lemma, the states it leaves named one by one. -/
theorem linkDownStepAtItsOwners : Obligations.LinkDownStepAtItsOwners := by
  unfold Obligations.LinkDownStepAtItsOwners
  intro c s t
  obtain ⟨hwindow, hline, hlink, hareas, hpending⟩ := linkDownStep_frame c s
  obtain ⟨hsubject, hretry, hhold⟩ := ExchangeUnit.settings_eq (linkDownStep_settings c s)
  have hstands := fun n => SlotState.endedByLinkDown_eq_false_iff (s.slotAt n).state
  refine ⟨fun k => ?_, linkDownStep_subject c s, fun n => ?_, ?_, linkDownStep_image c s, linkDownStep_sched c s, hline,
    hlink, hwindow, hareas, hpending, hretry, hhold, hsubject⟩
  · rw [linkDownStep_moduleAt]
    cases hm : (s.moduleAt k).state <;> simp [ModuleRecord.linkDown, ModuleState.linkDown, hm]
  · rw [linkDownStep_slotAt]
    by_cases h : (s.slotAt n).state.endedByLinkDown = false
    · rw [if_pos ((hstands n).mp h), h]
      rfl
    · rw [if_neg (fun e => h ((hstands n).mpr e)), if_pos (by simpa using h)]
      rfl
  · refine (linkDownStep_notices c s).trans (congrArg (s.notices.offerAll _) (List.filterMap_congr fun n _ => ?_))
    by_cases h : (s.slotAt n).state.endedByLinkDown = false
    · rw [if_pos ((hstands n).mp h), downNotice, h]
      rfl
    · rw [if_neg (fun e => h ((hstands n).mpr e)), downNotice, if_pos (by simpa using h)]

/-! ### The STOP_DONE entry (R32, R61, R168) -/

theorem SlotState.inPhase_iff (st : SlotState) :
    st.inPhase = true ↔ st = .opening ∨ st = .transferring ∨ st = .closing := by
  cases st <;> simp [SlotState.inPhase]

/-- The entry into IDLE told, before the cycle is ended (R24, R32). -/
def idleEntered (s : State) : State := changeLink .idle .stopDone (drivePair s)

/-- The entry into IDLE with the cycle ended, before slots are aborted (R61, R168). -/
def cyclingEnded (s : State) : State := { stoppedCycleEnd (idleEntered s) with
  sched := { (stoppedCycleEnd (idleEntered s)).sched with timer := .stopped, stage := .none } }

theorem stopDone_eq (s : State) : stopDone s = abortSlots allSlots (cyclingEnded s) := rfl

theorem stoppedCycleEnd_scan {s : State} (h : s.sched.stage = .mark ∨ s.sched.stage = .scan) :
    stoppedCycleEnd s = cycleEnd .stopped (s.sched.scanLength.toNat - s.sched.scanPos) s := by
  rw [stoppedCycleEnd_eq, if_pos h]
  rfl

theorem stoppedCycleEnd_late {s : State} (h : ¬ (s.sched.stage = .mark ∨ s.sched.stage = .scan)) :
    stoppedCycleEnd s = s := by
  rw [stoppedCycleEnd_eq, if_neg h]

/-- The cycle end of STOP_DONE at the notice unit: CYCLE_END in stage MARK or SCAN (R47, R61). -/
theorem stoppedCycleEnd_notices (s : State) : (stoppedCycleEnd s).notices =
    if s.sched.stage = .mark ∨ s.sched.stage = .scan then s.notices.raise .cycleEnd else s.notices := by
  by_cases h : s.sched.stage = .mark ∨ s.sched.stage = .scan
  · rw [stoppedCycleEnd_scan h, cycleEnd_notices, if_neg (by decide), if_pos h]
  · rw [stoppedCycleEnd_late h, if_neg h]

theorem stoppedCycleEnd_counter (s : State) : (stoppedCycleEnd s).sched.cycleCounter = s.sched.cycleCounter := by
  rw [stoppedCycleEnd_eq]
  split
  · rw [cycleEnd_sched]
  · rfl

theorem stoppedCycleEnd_moduleAt (s : State) (k : Fin 30) :
    (stoppedCycleEnd s).moduleAt k = (s.moduleAt k).aged ∨ (stoppedCycleEnd s).moduleAt k = s.moduleAt k := by
  rw [stoppedCycleEnd_eq]
  split
  · exact Or.inl (cycleEnd_moduleAt _ _ s k)
  · exact Or.inr rfl

theorem cyclingEnded_slotAt (s : State) (n : Fin 8) : (cyclingEnded s).slotAt n = s.slotAt n :=
  State.slotAt_congr (stoppedCycleEnd_frame (idleEntered s)).2.2.2.1 n

theorem stopDone_blocks (s : State) :
    (stopDone s).link = { s.link with state := .idle, lastOld := s.link.state, lastNew := .idle, lastCause := .stopDone } ∧
    (stopDone s).line = { s.line with lde := true, ltx := .idle } ∧
    (stopDone s).table = (stoppedCycleEnd (idleEntered s)).table ∧
    (stopDone s).image = (stoppedCycleEnd (idleEntered s)).image ∧
    (stopDone s).sched = { (stoppedCycleEnd (idleEntered s)).sched with timer := .stopped, stage := .none } ∧
    (stopDone s).exch.settings = s.exch.settings := by
  obtain ⟨-, hcline, hclink, hcexch, -⟩ := stoppedCycleEnd_frame (idleEntered s)
  obtain ⟨-, hline, hlink, hsched, htable, himage, -⟩ := abortSlots_frame allSlots (cyclingEnded s)
  exact ⟨hlink.trans hclink, hline.trans hcline, htable, himage, hsched,
    (abortSlots_settings allSlots (cyclingEnded s)).trans (congrArg ExchangeUnit.settings hcexch)⟩

theorem stopDone_slotAt (s : State) (n : Fin 8) : (stopDone s).slotAt n =
    if (s.slotAt n).state.inPhase = true then { s.slotAt n with
      state := .aborted
      run := { (s.slotAt n).run with
        recordedPhase := (s.slotAt n).state.phase, condition := .none, waitArea := false, deferred := false,
        abortRequested := false } }
    else s.slotAt n := by
  rw [stopDone_eq, abortSlots_slotAt, cyclingEnded_slotAt]
  exact if_congr (and_iff_right (mem_allSlots n)) rfl rfl

theorem stopDone_notices (s : State) : (stopDone s).notices =
    (stoppedCycleEnd (idleEntered s)).notices.offerAll s.sched.cycleCounter (allSlots.filterMap (abortNotice s)) := by
  have hcounter : (cyclingEnded s).sched.cycleCounter = s.sched.cycleCounter := stoppedCycleEnd_counter (idleEntered s)
  have habort : abortNotice (cyclingEnded s) = abortNotice s := by
    funext n
    rw [abortNotice, abortNotice, cyclingEnded_slotAt]
  rw [stopDone_eq, abortSlots_notices (by decide), hcounter, habort]
  rfl

/-! ### STOP (R31) -/

/-- A change of link state, written out (R24). -/
theorem changeLink_eq (new : LinkState) (c : LinkCause) {old : LinkState} {s : State} (h : s.link.state = old) :
    changeLink new c s = { s with
      link := { s.link with state := new, lastOld := old, lastNew := new, lastCause := c }
      notices := (s.notices.offer s.sched.cycleCounter (.linkState old new c)).raise .linkChange } := by
  subst h
  rfl

theorem exec_stop_running {s : State} (h : s.atCommand .link = true) (hk : s.link.state = .running) :
    exec .stop s = .next (answered .link 3#8 .accepted (if s.line.txn = none then
      stopDone (changeLink .stopping .command s) else changeLink .stopping .command s)) := by
  rw [exec_stop h, takeStop, if_pos hk, stopLink]
  simp only [changeLink_line, Option.isNone_iff_eq_none]
  rfl

/-- Settles O16: STOP with and without a transaction in flight, then the entry block by block. -/
theorem stopHaltsCycling : Obligations.StopHaltsCycling := by
  unfold Obligations.StopHaltsCycling
  refine ⟨fun s hat => ⟨fun hk ht => ?_, fun hk ht => ?_, fun hk => ?_⟩, fun s => ?_⟩
  · rw [exec_stop_running hat hk, if_neg ht, changeLink_eq .stopping .command hk]
  · rw [exec_stop_running hat hk, if_pos ht, changeLink_eq .stopping .command hk]
  · rw [exec_stop hat, takeStop, if_neg hk]
    rfl
  · intro t cut told
    obtain ⟨hlink, hline, htable, himage, hsched, hsettings⟩ := stopDone_blocks s
    obtain ⟨hsubject, hretry, hhold⟩ : t.exch.subject = s.exch.subject ∧ t.exch.retryLimit = s.exch.retryLimit ∧
        t.exch.holdLimit = s.exch.holdLimit := ExchangeUnit.settings_eq hsettings
    obtain ⟨hwindow, hareas, hpending⟩ := stopDone_frame s
    refine ⟨hlink, hline, fun hs => ?_, fun hm hn => ?_, fun k => ?_, fun n => ?_, ?_, hareas, hsubject, hretry, hhold,
      ?_, hwindow, hpending⟩
    · have hend := stoppedCycleEnd_scan (s := idleEntered s) hs
      refine ⟨htable.trans (by rw [hend, cycleEnd_table, cycleEnd_table]; rfl), himage.trans ?_, hsched.trans ?_⟩
      · rw [hend]
        exact cycleEnd_image_congr .stopped cut rfl rfl rfl
      · rw [hend, cycleEnd_sched]
        rfl
    · have hend := stoppedCycleEnd_late (s := idleEntered s) (fun h => h.elim hm hn)
      rw [hend] at htable himage hsched
      exact ⟨htable, himage, hsched⟩
    · rw [State.moduleAt_congr htable]
      rcases stoppedCycleEnd_moduleAt (idleEntered s) k with h | h <;> rw [h] <;> exact ⟨rfl, rfl, rfl, rfl⟩
    · rw [stopDone_slotAt]
      exact if_congr (SlotState.inPhase_iff _) rfl rfl
    · rw [show t.notices = _ from stopDone_notices s, stoppedCycleEnd_notices]
      rfl
    · rw [htable, stoppedCycleEnd_table]
      rfl

end Sys2Proof.Machine
end

section
/-! SUPPORT. The writes of the guarded host fields: each taken with its adjustment, or refused with a window error. -/

namespace Sys2Proof.Machine

/-! ### The course of a guarded write -/

/-- The classes of registers at which INDEX goes on: all but COMMAND, the data port, and the read-only ones, of which
RESULT keeps it (R181). -/
def WriteClass.movesIndex : WriteClass → Bool
  | .command | .readOnly | .dataPort => false
  | _ => true

theorem Reg.keepsIndex_of_writeClass {r : Reg} {select : Fin 4} (h : (r.writeClass select).movesIndex = true) :
    r.keepsIndex = false := by
  cases r with
  | command u => cases h
  | result u => cases h
  | dataPort => cases h
  | _ => rfl

/-- A write of a class, taken: the effect, INDEX one further. -/
theorem onWrite_taken {c : WriteClass} {f : Reg → State → State} {s t : State} {r : Reg} (h : s.atReg r)
    (hc : r.writeClass s.image.select = c) (hm : c.movesIndex = true) (ht : f r s = t) (hw : t.window = s.window) :
    onWrite c f s = stepped t :=
  onWrite_takes h hc (Reg.keepsIndex_of_writeClass (hc ▸ hm)) ht (by rw [hw]) (by rw [hw])

/-- A write of a class, refused: the window error WRONG_STATE, and INDEX one further (R182, R184). -/
theorem onWrite_refused {c : WriteClass} {f : Reg → State → State} {s : State} {r : Reg} (h : s.atReg r)
    (hc : r.writeClass s.image.select = c) (hm : c.movesIndex = true) (ht : f r s = s.windowError .wrongState) :
    onWrite c f s = stepped (erred .wrongState s) :=
  onWrite_takes h hc (Reg.keepsIndex_of_writeClass (hc ▸ hm)) (ht.trans (State.windowError_eq _ s)) rfl rfl

theorem LinkState.cycling_iff (l : LinkState) : l.cycling = true ↔ l = .running ∨ l = .stopping := by
  cases l <;> simp [LinkState.cycling]

theorem whenNoCycles_taken {f : State → State} {s : State} (h1 : s.link.state ≠ .running)
    (h2 : s.link.state ≠ .stopping) : whenNoCycles f s = f s :=
  if_neg fun h => ((LinkState.cycling_iff _).mp h).elim h1 h2

theorem whenNoCycles_refused {f : State → State} {s : State} (h : s.link.state = .running ∨ s.link.state = .stopping) :
    whenNoCycles f s = s.windowError .wrongState := if_pos ((LinkState.cycling_iff _).mpr h)

/-- The range 1 to 7 with 0 named (R23, R115). -/
theorem clampOneToSeven_eq (v : Byte) :
    clampOneToSeven v = if v = 0#8 then 1#8 else if 7 < v.toNat then 7#8 else v := by
  have hzero : v.toNat < 1 ↔ v = 0#8 := by
    rw [← BitVec.toNat_inj, BitVec.toNat_ofNat]
    omega
  rw [clampOneToSeven]
  exact if_congr hzero rfl rfl

/-! ### Each row, taken and refused -/

section
variable {v : Byte} {s t : State} {r : Reg}

theorem exec_linkConfigWrite_taken (h : s.atReg r) (hc : r.writeClass s.image.select = .linkConfig)
    (hk : s.link.state = .off) (ht : putLinkConfig v r s = t) : exec (.linkConfigWrite v) s = .next (stepped t) :=
  congrArg Host.Outcome.next
    (onWrite_taken h hc rfl ((if_pos hk).trans ht) (ht ▸ (putLinkConfig_frame v r s).1))

theorem exec_linkConfigWrite_refused (h : s.atReg r) (hc : r.writeClass s.image.select = .linkConfig)
    (hk : s.link.state ≠ .off) : exec (.linkConfigWrite v) s = .next (stepped (erred .wrongState s)) :=
  congrArg Host.Outcome.next (onWrite_refused h hc rfl (if_neg hk))

theorem exec_cycleLengthWrite_taken (h : s.atReg r) (hc : r.writeClass s.image.select = .cycleLength)
    (h1 : s.link.state ≠ .running) (h2 : s.link.state ≠ .stopping) (ht : putCycleLength v r s = t) :
    exec (.cycleLengthWrite v) s = .next (stepped t) :=
  congrArg Host.Outcome.next (onWrite_taken h hc rfl ((whenNoCycles_taken h1 h2).trans ht)
    (ht ▸ (putCycleLength_frame v r s).1))

theorem exec_cycleLengthWrite_refused (h : s.atReg r) (hc : r.writeClass s.image.select = .cycleLength)
    (hk : s.link.state = .running ∨ s.link.state = .stopping) :
    exec (.cycleLengthWrite v) s = .next (stepped (erred .wrongState s)) :=
  congrArg Host.Outcome.next (onWrite_refused h hc rfl (whenNoCycles_refused hk))

theorem exec_scanListWrite_taken (h : s.atReg r) (hc : r.writeClass s.image.select = .scanList)
    (h1 : s.link.state ≠ .running) (h2 : s.link.state ≠ .stopping) (ht : putScanList v r s = t) :
    exec (.scanListWrite v) s = .next (stepped t) :=
  congrArg Host.Outcome.next (onWrite_taken h hc rfl ((whenNoCycles_taken h1 h2).trans ht)
    (ht ▸ (putScanList_frame v r s).1))

theorem exec_scanListWrite_refused (h : s.atReg r) (hc : r.writeClass s.image.select = .scanList)
    (hk : s.link.state = .running ∨ s.link.state = .stopping) :
    exec (.scanListWrite v) s = .next (stepped (erred .wrongState s)) :=
  congrArg Host.Outcome.next (onWrite_refused h hc rfl (whenNoCycles_refused hk))

theorem exec_searchVacantWrite_taken (h : s.atReg r) (hc : r.writeClass s.image.select = .searchVacant)
    (h1 : s.link.state ≠ .running) (h2 : s.link.state ≠ .stopping) :
    exec (.searchVacantWrite v) s =
      .next (stepped { s with sched := { s.sched with searchVacant := decide (v ≠ 0#8) } }) :=
  congrArg Host.Outcome.next (onWrite_taken h hc rfl ((whenNoCycles_taken h1 h2).trans
    (congrArg (fun b => ({ s with sched := { s.sched with searchVacant := b } } : State))
      (Bool.eq_iff_iff.mpr (by simp)))) rfl)

theorem exec_searchVacantWrite_refused (h : s.atReg r) (hc : r.writeClass s.image.select = .searchVacant)
    (hk : s.link.state = .running ∨ s.link.state = .stopping) :
    exec (.searchVacantWrite v) s = .next (stepped (erred .wrongState s)) :=
  congrArg Host.Outcome.next (onWrite_refused h hc rfl (whenNoCycles_refused hk))

theorem ModuleState.inService_iff (st : ModuleState) : st.inService = true ↔ st = .present ∨ st = .suspect := by
  cases st <;> simp [ModuleState.inService]

theorem exec_moduleFieldWrite_taken {m : ModuleRecord} (h : s.atReg r)
    (hc : r.writeClass s.image.select = .moduleField) (h1 : s.selModule.state ≠ .present)
    (h2 : s.selModule.state ≠ .suspect) (hm : s.selModule.putField v r = m) :
    exec (.moduleFieldWrite v) s = .next (stepped (s.setModule s.table.subject m)) :=
  congrArg Host.Outcome.next (onWrite_taken h hc rfl
    ((if_neg fun e => ((ModuleState.inService_iff _).mp e).elim h1 h2).trans
      (congrArg (s.setModule s.table.subject) hm)) rfl)

theorem exec_moduleFieldWrite_refused (h : s.atReg r) (hc : r.writeClass s.image.select = .moduleField)
    (hk : s.selModule.state = .present ∨ s.selModule.state = .suspect) :
    exec (.moduleFieldWrite v) s = .next (stepped (erred .wrongState s)) :=
  congrArg Host.Outcome.next (onWrite_refused h hc rfl (if_pos ((ModuleState.inService_iff _).mpr hk)))

theorem exec_slotFieldWrite_taken {x : SlotHost} (h : s.atReg r) (hc : r.writeClass s.image.select = .slotField)
    (hk : s.selSlot.state = .free) (hx : s.selSlot.host.putField v r = x) :
    exec (.slotFieldWrite v) s = .next (stepped (s.setSlot s.exch.subject { s.selSlot with host := x })) :=
  congrArg Host.Outcome.next (onWrite_taken h hc rfl
    ((if_pos hk).trans (congrArg (fun y => s.setSlot s.exch.subject { s.selSlot with host := y }) hx)) rfl)

theorem exec_slotFieldWrite_refused (h : s.atReg r) (hc : r.writeClass s.image.select = .slotField)
    (hk : s.selSlot.state ≠ .free) : exec (.slotFieldWrite v) s = .next (stepped (erred .wrongState s)) :=
  congrArg Host.Outcome.next (onWrite_refused h hc rfl (if_neg hk))

theorem exec_exchangeLimitWrite_taken (h : s.atReg r) (hc : r.writeClass s.image.select = .exchangeLimit)
    (h1 : s.link.state ≠ .running) (h2 : s.link.state ≠ .stopping) (ht : putLimit v r s = t) :
    exec (.exchangeLimitWrite v) s = .next (stepped t) :=
  congrArg Host.Outcome.next (onWrite_taken h hc rfl ((whenNoCycles_taken h1 h2).trans ht)
    (ht ▸ (putLimit_frame v r s).1))

theorem exec_exchangeLimitWrite_refused (h : s.atReg r) (hc : r.writeClass s.image.select = .exchangeLimit)
    (hk : s.link.state = .running ∨ s.link.state = .stopping) :
    exec (.exchangeLimitWrite v) s = .next (stepped (erred .wrongState s)) :=
  congrArg Host.Outcome.next (onWrite_refused h hc rfl (whenNoCycles_refused hk))

end

/-- Settles O19: each row taken at each of its fields, and refused at all of them, by its guard. -/
theorem guardedFieldWrites : Obligations.GuardedFieldWrites := by
  unfold Obligations.GuardedFieldWrites
  refine ⟨fun v s => ⟨fun hk => ⟨fun h => ?_, fun h => ?_, fun h => ?_⟩, fun hk r h hc => ?_⟩,
    fun v s => ⟨fun h1 h2 => ⟨fun h => ?_, fun h => ?_, fun h => ?_, fun j h => ?_, fun h => ?_⟩,
      fun hk => ⟨fun r h hc => ?_, fun r h hc => ?_, fun r h hc => ?_⟩⟩,
    fun v s => ⟨fun h1 h2 => ⟨fun h => ?_, fun h => ?_, fun h => ?_, fun h => ?_, fun h => ?_, fun h => ?_,
      fun h => ?_, fun h => ?_, fun h => ?_⟩, fun hk r h hc => ?_⟩,
    fun v s => ⟨fun hk => ⟨fun h => ?_, fun h => ?_, fun h => ?_, fun h => ?_, fun h => ?_, fun h => ?_,
      fun h a ha => ?_, fun h => ?_, fun h => ?_, fun j h => ?_⟩, fun hk r h hc => ?_,
      fun h1 h2 => ⟨fun h => ?_, fun h => ?_⟩, fun hk r h hc => ?_⟩⟩
  · exact exec_linkConfigWrite_taken h rfl hk rfl
  · exact exec_linkConfigWrite_taken h rfl hk rfl
  · rw [← clampOneToSeven_eq]
    exact exec_linkConfigWrite_taken h rfl hk rfl
  · exact exec_linkConfigWrite_refused h hc hk
  · exact exec_cycleLengthWrite_taken h rfl h1 h2 rfl
  · exact exec_cycleLengthWrite_taken h rfl h1 h2 rfl
  · exact exec_scanListWrite_taken h rfl h1 h2 rfl
  · exact exec_scanListWrite_taken h rfl h1 h2 rfl
  · exact exec_searchVacantWrite_taken h rfl h1 h2
  · exact exec_cycleLengthWrite_refused h hc hk
  · exact exec_scanListWrite_refused h hc hk
  · exact exec_searchVacantWrite_refused h hc hk
  iterate 9 · exact exec_moduleFieldWrite_taken h rfl h1 h2 rfl
  · exact exec_moduleFieldWrite_refused h hc hk
  iterate 6 · exact exec_slotFieldWrite_taken h rfl hk rfl
  · have harea : (⟨v.toNat % 4, Nat.mod_lt _ (by decide)⟩ : Fin 4) = a := Fin.ext ha
    exact exec_slotFieldWrite_taken h rfl hk (congrArg (fun b => { s.selSlot.host with area := b }) harea)
  iterate 3 · exact exec_slotFieldWrite_taken h rfl hk rfl
  · exact exec_slotFieldWrite_refused h hc hk
  · rw [← clampOneToSeven_eq]
    exact exec_exchangeLimitWrite_taken h rfl h1 h2 rfl
  · exact exec_exchangeLimitWrite_taken h rfl h1 h2 rfl
  · exact exec_exchangeLimitWrite_refused h hc hk

end Sys2Proof.Machine
end

section
/-! SUPPORT. The state after power-on reset, law by law. -/

namespace Sys2Proof.Machine

theorem State.reset_module (k : Fin 30) : State.reset.moduleAt k = ModuleRecord.reset := State.reset_moduleAt [] k

theorem State.reset_slot (n : Fin 8) : State.reset.slotAt n = Slot.reset := State.reset_slotAt [] n

theorem State.reset_area (a : Fin 4) : State.reset.areaAt a = AreaRecord.reset (1024 * a.val) := State.reset_areaAt [] a

/-- The four images and the data memory hold no cell (R91, R108). -/
theorem State.reset_memoriesWf : State.reset.memoriesWf :=
  ⟨Memory.wf_nil, Memory.wf_nil, Memory.wf_nil, Memory.wf_nil, Memory.wf_nil⟩

theorem State.reset_addressingLawful : State.reset.addressingLawful := by
  refine ⟨State.reset.regionsInside_iff.mpr fun k hk => ?_, ?_⟩
  · rw [State.reset_module] at hk
    cases hk
  · simp only [State.layoutLawful, State.reset_area]
    exact ⟨rfl, rfl, rfl, rfl, by decide, fun _ => (show 1024 % 64 = 0 by decide),
      fun _ _ => (show 0 < 1024 by decide)⟩

theorem NoticeUnit.reset_lawful : NoticeUnit.reset.lawful := by
  unfold NoticeUnit.lawful
  decide

theorem State.reset_lineAndCycle : State.reset.lineLawful ∧ State.reset.cycleLawful :=
  State.reset.lineAndCycle_iff.mp
    ((State.lineAndCycle_released State.reset (Or.inl rfl)).mpr ⟨⟨rfl, rfl, rfl⟩, rfl, rfl⟩)

theorem ModuleRecord.reset_lawful : ModuleRecord.reset.lawful := by
  unfold ModuleRecord.lawful
  decide

/-- Every module is VACANT with count 0, and the threshold is 3 (R90, Table 2-2). -/
theorem State.reset_countsLawful : State.reset.countsLawful := by
  refine ⟨by decide, by decide, fun k => ?_, fun _ k => ?_⟩ <;> rw [State.reset_module]
  · exact ModuleRecord.countLawful_zero (by decide) (by decide) rfl
  · rfl

theorem Slot.reset_lawful : Slot.reset.lawful := by
  unfold Slot.lawful
  decide

/-- All slots are FREE, no module has a holder or a waiting slot, and no area is bound or filled (R90, R128, R140). -/
theorem State.reset_exchangesLawful : State.reset.exchangesLawful := by
  refine ⟨fun k n => ?_, fun k => ?_, fun a n d => ?_, fun a => ?_, fun n => ?_, fun n q h => ?_, fun n h => ?_⟩
  · rw [State.reset_module, State.reset_slot]
    exact ⟨fun h => (by cases h), fun h => (by cases h.1)⟩
  · rw [State.reset_module]
    refine ⟨List.nodup_nil, fun n => ?_⟩
    rw [State.reset_slot]
    exact ⟨fun h => (by cases h), fun h => (by cases h.1)⟩
  · rw [State.reset_area, State.reset_slot]
    exact ⟨fun h => (by cases h), fun h => absurd rfl h.1⟩
  · rw [State.reset_area]
    exact Nat.zero_le _
  · rw [State.reset_slot]
    exact Slot.reset_lawful
  · rw [State.reset_slot] at h
    cases h
  · rw [State.reset_slot] at h
    cases h

/-- Settles O53: each law of the reset state by its own lemma. -/
theorem resetStateIsLawful : Obligations.ResetStateIsLawful := by
  unfold Obligations.ResetStateIsLawful
  exact ⟨State.reset_memoriesWf, State.reset_addressingLawful, NoticeUnit.reset_lawful, State.reset_lineAndCycle.1,
    State.reset_lineAndCycle.2, fun k => by rw [State.reset_module]; exact ModuleRecord.reset_lawful,
    State.reset_countsLawful, State.reset_exchangesLawful⟩

end Sys2Proof.Machine
end

section
/-! SUPPORT. A DATA access as the row of the table that UNIT and INDEX select: which row it is, and that the row leaves
UNIT, moves INDEX and, for a write, empties the read latch. -/

namespace Sys2Proof.Machine

/-! ### UNIT and INDEX under an access -/

/-- UNIT and INDEX are as before: what every effect at a register leaves them. -/
def State.samePlace (s t : State) : Prop := t.window.unit = s.window.unit ∧ t.window.index = s.window.index

/-- UNIT is as before and INDEX has moved by the rule of R181. -/
def State.accessClosed (s t : State) : Prop := t.window.unit = s.window.unit ∧ t.window.index = s.window.nextIndex

theorem unitOf_eq_none_iff (b : Byte) : unitOf b = none ↔ ¬ b.toNat < 8 := by
  unfold unitOf
  split <;> simp_all
  omega

theorem unitOf_eq_areas_iff (b : Byte) : unitOf b = some .areas ↔ b = 6#8 := by
  rw [← BitVec.toNat_inj]
  unfold unitOf
  split <;> simp_all

/-- The rule of INDEX, with the unit numbers written out (R181). -/
theorem RegisterWindow.nextIndex_eq (w : RegisterWindow) : w.nextIndex =
    if (w.unit.toNat < 8 ∧ (w.index = 0#8 ∨ w.index = 1#8)) ∨ (w.unit = 6#8 ∧ w.index = 8#8) then w.index
    else w.index + 1#8 := by
  refine if_congr ?_ rfl rfl
  rw [← unitOf_eq_areas_iff, ← not_not (a := w.unit.toNat < 8), ← unitOf_eq_none_iff]
  unfold RegisterWindow.indexStays
  cases unitOf w.unit <;> simp [or_assoc]

namespace State.samePlace

variable {s t : State}

theorem of_window (h : t.window = s.window) : s.samePlace t := ⟨by rw [h], by rw [h]⟩

theorem windowError (c : WindowCause) (s : State) : s.samePlace (s.windowError c) := ⟨rfl, rfl⟩

theorem ite {p : Prop} [Decidable p] {t' : State} (h : s.samePlace t) (h' : s.samePlace t') :
    s.samePlace (if p then t else t') := by
  split
  exacts [h, h']

theorem whenNoCycles {f : State → State} (h : s.samePlace (f s)) : s.samePlace (whenNoCycles f s) :=
  ite (windowError .wrongState s) h

theorem nextIndex_eq (h : s.samePlace t) : t.window.nextIndex = s.window.nextIndex := by
  simp only [RegisterWindow.nextIndex, RegisterWindow.indexStays, h.1, h.2]
  rfl

theorem advanceIndex (h : s.samePlace t) : s.accessClosed t.advanceIndex := ⟨h.1, h.nextIndex_eq⟩

theorem finishAccess (h : s.samePlace t) : s.accessClosed t.finishAccess := ⟨h.1, h.nextIndex_eq⟩

end State.samePlace

/-! ### Writes -/

/-- What a DATA write leaves of the window: UNIT, INDEX moved by the rule, and an empty read latch (R181, R182). -/
def State.writeClosed (s t : State) : Prop := s.accessClosed t ∧ t.window.latch = none

theorem State.samePlace.writeClosed {s t : State} (h : s.samePlace t) : s.writeClosed t.finishAccess :=
  ⟨h.finishAccess, rfl⟩

/-- A command of a unit closes as a write, whatever it is, if it leaves UNIT and INDEX. -/
theorem onCommand_writeClosed {u : UnitId} (code : Byte) {take : State → Taken} {s : State}
    (h : s.atCommand u = true) (ht : s.samePlace (take s).state) : s.writeClosed (onCommand u code take s) := by
  rw [onCommand, if_pos h]
  exact State.samePlace.writeClosed (t := storeCommand u code _ _) ht

theorem onWrite_writeClosed {c : WriteClass} {f : Reg → State → State} {s : State} {r : Reg} (h : s.atReg r)
    (hc : r.writeClass s.image.select = c) (hf : s.samePlace (f r s)) : s.writeClosed (onWrite c f s) := by
  rw [onWrite_eq h hc]
  exact hf.writeClosed

/-- A command code outside the units' own codes is the unit's UNKNOWN_COMMAND (R183). -/
theorem exec_unknownCommand {u : UnitId} {c : Byte} {s : State} (h : s.atCommand u = true)
    (hc : definesCommand u c = false) :
    exec (.unknownCommand c) s = .next (onCommand u c (refuse .unknownCommand) s) := by
  have hsel := ((State.atCommand_iff s u).mp h).2
  simp only [exec, execUnknownCommand, hsel, hc]
  rfl

theorem commandRow_unknown_codes (u : UnitId) : ∀ n : Fin 256, definesCommand u (BitVec.ofFin n) = true →
    commandRow u (BitVec.ofFin n) ≠ .unknownCommand (BitVec.ofFin n) := by
  cases u <;> decide +kernel

theorem commandRow_eq_unknown {u : UnitId} {c : Byte} (h : commandRow u c = .unknownCommand c) :
    definesCommand u c = false :=
  Bool.eq_false_iff.mpr fun hc => commandRow_unknown_codes u c.toFin hc h

/-- Every write at COMMAND closes as a write (R183). -/
theorem exec_commandRow {u : UnitId} (c : Byte) {s : State} (h : s.atCommand u = true) :
    ∃ t, exec (commandRow u c) s = .next t ∧ s.writeClosed t := by
  have taken : ∀ (code : Byte) (take : State → Taken), (take s).state.window = s.window →
      s.writeClosed (onCommand u code take s) := fun code take hw =>
    onCommand_writeClosed code h (State.samePlace.of_window hw)
  generalize hi : commandRow u c = i
  have hrow := hi
  unfold commandRow at hi
  split at hi <;> subst hi
  · exact ⟨_, rfl, onCommand_writeClosed _ h ⟨rfl, rfl⟩⟩
  · exact ⟨_, rfl, taken _ takeStart (takeStart_frame s).1⟩
  · exact ⟨_, rfl, taken _ takeRun (takeRun_frame s).1⟩
  · exact ⟨_, rfl, taken _ takeStop (takeStop_frame s).1⟩
  · exact ⟨_, rfl, taken _ takeShutdown (takeShutdown_frame s).1⟩
  · exact ⟨_, rfl, taken _ takeExpect (takeExpect_frame s).1⟩
  · exact ⟨_, rfl, taken _ takeAdopt (takeAdopt_frame s).1⟩
  · exact ⟨_, rfl, taken _ takeForget (takeForget_frame s).1⟩
  · exact ⟨_, rfl, taken _ takeDisable (takeDisable_frame s).1⟩
  · exact ⟨_, rfl, taken _ takeEnable (takeEnable_frame s).1⟩
  · exact ⟨_, rfl, taken _ takeCommit (takeCommit_frame s).1⟩
  · exact ⟨_, rfl, taken _ takeSnapshot (takeSnapshot_frame s).1⟩
  · exact ⟨_, rfl, taken _ takeFreeze (takeFreeze_frame s).1⟩
  · exact ⟨_, rfl, taken _ takeRelease (takeRelease_frame s).1⟩
  · exact ⟨_, rfl, taken _ takePost (takePost_frame s).1⟩
  · exact ⟨_, rfl, taken _ takeRetire (takeRetire_frame s).1⟩
  · exact ⟨_, rfl, taken _ takeRestart (takeRestart_frame s).1⟩
  · exact ⟨_, rfl, taken _ takeAbort (takeAbort_frame s).1⟩
  · exact ⟨_, rfl, taken _ takeResume (takeResume_frame s).1⟩
  · exact ⟨_, rfl, taken _ takeConfigure (takeConfigure_frame s).1⟩
  · exact ⟨_, rfl, taken _ takeFlush (takeFlush_frame s).1⟩
  · exact ⟨_, rfl, taken _ takePop (takePop_frame s).1⟩
  · exact ⟨_, rfl, taken _ takeClearLost (takeClearLost_frame s).1⟩
  · exact ⟨_, exec_unknownCommand h (commandRow_eq_unknown hrow), taken c (refuse .unknownCommand) rfl⟩

/-- COMMAND and the data port alone are of their classes. -/
theorem Reg.port_of_writeClass {r : Reg} {select : Fin 4}
    (h : r.writeClass select = .command ∨ r.writeClass select = .dataPort) : (∃ u, r = .command u) ∨ r = .dataPort := by
  cases r with
  | command u => exact Or.inl ⟨u, rfl⟩
  | dataPort => exact Or.inr rfl
  | lo f => cases f <;> rcases h with h | h <;> cases h
  | hi f => cases f <;> rcases h with h | h <;> cases h
  | byte b => cases b <;> rcases h with h | h <;> cases h
  | imageByte j =>
    simp only [Reg.writeClass] at h
    split at h <;> rcases h with h | h <;> cases h
  | _ => rcases h with h | h <;> cases h

theorem State.writeClass_atReg {s : State} {r : Reg} (h : s.selection = .reg r) :
    s.writeClass = some (r.writeClass s.image.select) := by
  simp only [State.writeClass, h]

theorem writeDataPort_samePlace (v : Byte) (s : State) : s.samePlace (writeDataPort v s) :=
  .ite (.windowError _ s) (.ite (.windowError _ s) (.of_window (appendToArea_frame _ _ s).1))

theorem exec_dataPortWrite_atPort (v : Byte) {s : State} (h : s.atReg .dataPort) (ha : s.areasInside = true) :
    exec (.dataPortWrite v) s = .next (onWrite .dataPort (fun _ => writeDataPort v) s) := by
  have hport : s.atDataPort = true := by simp [State.atDataPort, h.1, h.2]
  have hinside : s.selArea.inside = true := s.areasInside_iff.mp ha _
  simp only [exec, execDataPortWrite, hport, hinside, if_true]

/-- Every write at a register other than COMMAND closes as a write, by the row of the register's class. -/
theorem exec_classRow (v : Byte) {s : State} {r : Reg} (h : s.atReg r) (hr : ∀ u, r ≠ .command u)
    (ha : s.areasInside = true) :
    ∃ t, exec (classRow v (r.writeClass s.image.select)) s = .next t ∧ s.writeClosed t := by
  have hclass := State.writeClass_atReg h.2
  cases hc : r.writeClass s.image.select with rw [hc] at hclass
  | command =>
    rcases Reg.port_of_writeClass (Or.inl hc) with ⟨u, hu⟩ | rfl
    exacts [absurd hu (hr u), (by cases hc)]
  | plain =>
    refine ⟨_, rfl, ?_⟩
    rw [if_neg (by simp [hclass])]
    exact onWrite_writeClosed h hc (.of_window (writePlain_frame v r s).1)
  | readOnly =>
    refine ⟨_, rfl, ?_⟩
    rw [if_pos hclass]
    exact onWrite_writeClosed h hc (.windowError _ s)
  | linkConfig =>
    exact ⟨_, rfl, onWrite_writeClosed h hc (.ite (.of_window (putLinkConfig_frame v r s).1) (.windowError _ s))⟩
  | cycleLength =>
    exact ⟨_, rfl, onWrite_writeClosed h hc (.whenNoCycles (.of_window (putCycleLength_frame v r s).1))⟩
  | scanList => exact ⟨_, rfl, onWrite_writeClosed h hc (.whenNoCycles (.of_window (putScanList_frame v r s).1))⟩
  | searchVacant => exact ⟨_, rfl, onWrite_writeClosed h hc (.whenNoCycles (.of_window rfl))⟩
  | moduleField => exact ⟨_, rfl, onWrite_writeClosed h hc (.ite (.windowError _ s) (.of_window rfl))⟩
  | staging => exact ⟨_, rfl, onWrite_writeClosed h hc (.of_window (putStaging_frame v r s).1)⟩
  | follow => exact ⟨_, rfl, onWrite_writeClosed h hc (.of_window rfl)⟩
  | deadline => exact ⟨_, rfl, onWrite_writeClosed h hc (.of_window rfl)⟩
  | slotField => exact ⟨_, rfl, onWrite_writeClosed h hc (.ite (.of_window rfl) (.windowError _ s))⟩
  | exchangeLimit => exact ⟨_, rfl, onWrite_writeClosed h hc (.whenNoCycles (.of_window (putLimit_frame v r s).1))⟩
  | stagedSize => exact ⟨_, rfl, onWrite_writeClosed h hc (.of_window (putStaged_frame v r s).1)⟩
  | dataPort =>
    obtain rfl := (Reg.port_of_writeClass (Or.inr hc)).resolve_left fun ⟨u, hu⟩ => hr u hu
    exact ⟨_, exec_dataPortWrite_atPort v h ha, onWrite_writeClosed h hc (writeDataPort_samePlace v s)⟩
  | clearing => exact ⟨_, rfl, onWrite_writeClosed h hc (.of_window rfl)⟩
  | intEnable => exact ⟨_, rfl, onWrite_writeClosed h hc (.of_window rfl)⟩
  | attnEnable => exact ⟨_, rfl, onWrite_writeClosed h hc (.of_window rfl)⟩

theorem dataWriteRow_command {s : State} {u : UnitId} (v : Byte) (h : s.selection = .reg (.command u)) :
    dataWriteRow s v = commandRow u v := by
  simp only [dataWriteRow, h]

theorem dataWriteRow_reg {s : State} {r : Reg} (v : Byte) (h : s.selection = .reg r) (hr : ∀ u, r ≠ .command u) :
    dataWriteRow s v = classRow v (r.writeClass s.image.select) := by
  cases r with
  | command u => exact absurd rfl (hr u)
  | _ => simp only [dataWriteRow, h]

/-- Every DATA write is taken as its row, and closes as a write. -/
theorem exec_dataWriteRow (v : Byte) {s : State} (hp : s.window.prst = false) (ha : s.areasInside = true) :
    ∃ t, exec (dataWriteRow s v) s = .next t ∧ s.writeClosed t := by
  cases hsel : s.selection with
  | noUnit =>
    refine ⟨missAccess .noUnit (.write v) s, ?_, (State.samePlace.windowError _ s).writeClosed⟩
    simp [dataWriteRow, exec, execNoUnitAccess, hsel, hp]
  | noIndex =>
    refine ⟨missAccess .noIndex (.write v) s, ?_, (State.samePlace.windowError _ s).writeClosed⟩
    simp [dataWriteRow, exec, execNoIndexAccess, hsel, hp]
  | reg r =>
    by_cases hr : ∃ u, r = .command u
    · obtain ⟨u, rfl⟩ := hr
      rw [dataWriteRow_command v hsel]
      exact exec_commandRow v ((s.atCommand_iff u).mpr ⟨hp, hsel⟩)
    · have hne : ∀ u, r ≠ .command u := fun u e => hr ⟨u, e⟩
      rw [dataWriteRow_reg v hsel hne]
      exact exec_classRow v ⟨hp, hsel⟩ hne ha

/-! ### Reads -/

theorem State.samePlace.returns {s t : State} (v : Byte) (h : s.samePlace t) : s.samePlace (t.returns v) := h

theorem readDataPort_samePlace (s : State) : s.samePlace (readDataPort s) :=
  .ite (.returns _ (.windowError _ s)) (.ite (.returns _ (.windowError _ s)) (.returns _ (.of_window rfl)))

theorem readHigh_accessClosed (f : Field16) (s : State) : s.accessClosed (readHigh f s) := by
  have hread : ∀ v, s.samePlace (s.returns v) := fun v => .returns v (.of_window rfl)
  unfold readHigh
  split
  exacts [(hread _).finishAccess, (hread _).advanceIndex]

theorem exec_lowByteRead_atReg {s : State} {f : Field16} (h : s.atReg (.lo f)) :
    ∃ t, exec .lowByteRead s = .next t ∧ s.accessClosed t := by
  simp only [exec, execLowByteRead, h.1, h.2]
  exact ⟨_, rfl, rfl, rfl⟩

theorem exec_dataPortRead_atPort {s : State} (h : s.atReg .dataPort) (ha : s.areasInside = true) :
    exec .dataPortRead s = .next (readDataPort s).finishAccess := by
  have hport : s.atDataPort = true := by simp [State.atDataPort, h.1, h.2]
  have hinside : s.selArea.inside = true := s.areasInside_iff.mp ha _
  simp [exec, execDataPortRead, h.1, hport, hinside]

/-- A read of a register other than a low byte and the data port (R181, R182). -/
theorem exec_registerRead_atReg {s : State} {r : Reg} (h : s.atReg r) (hlo : ∀ f, r ≠ .lo f) (hport : r ≠ .dataPort) :
    ∃ t, exec .registerRead s = .next t ∧ s.accessClosed t := by
  have hread : ∀ v, s.accessClosed (s.returns v).finishAccess := fun v =>
    State.samePlace.finishAccess (.returns v (.of_window rfl))
  simp only [exec, execRegisterRead, h.1, h.2]
  cases r with
  | lo f => exact absurd rfl (hlo f)
  | dataPort => exact absurd rfl hport
  | hi f => exact ⟨_, rfl, readHigh_accessClosed f s⟩
  | _ => exact ⟨_, rfl, hread _⟩

theorem dataReadRow_reg {s : State} {r : Reg} (h : s.selection = .reg r) (hlo : ∀ f, r ≠ .lo f)
    (hport : r ≠ .dataPort) : dataReadRow s = .registerRead := by
  cases r with
  | lo f => exact absurd rfl (hlo f)
  | dataPort => exact absurd rfl hport
  | _ => simp only [dataReadRow, h]

/-- Every DATA read is taken as its row, and leaves UNIT and moves INDEX by the rule. -/
theorem exec_dataReadRow {s : State} (hp : s.window.prst = false) (ha : s.areasInside = true) :
    ∃ t, exec (dataReadRow s) s = .next t ∧ s.accessClosed t := by
  cases hsel : s.selection with
  | noUnit =>
    refine ⟨missAccess .noUnit .read s, ?_, State.samePlace.finishAccess (.returns _ (.windowError _ s))⟩
    simp [dataReadRow, exec, execNoUnitAccess, hsel, hp]
  | noIndex =>
    refine ⟨missAccess .noIndex .read s, ?_, State.samePlace.finishAccess (.returns _ (.windowError _ s))⟩
    simp [dataReadRow, exec, execNoIndexAccess, hsel, hp]
  | reg r =>
    by_cases hlo : ∃ f, r = .lo f
    · obtain ⟨f, rfl⟩ := hlo
      rw [show dataReadRow s = .lowByteRead by simp only [dataReadRow, hsel]]
      exact exec_lowByteRead_atReg ⟨hp, hsel⟩
    · by_cases hport : r = .dataPort
      · subst hport
        rw [show dataReadRow s = .dataPortRead by simp only [dataReadRow, hsel]]
        exact ⟨_, exec_dataPortRead_atPort ⟨hp, hsel⟩ ha, (readDataPort_samePlace s).finishAccess⟩
      · have hne : ∀ f, r ≠ .lo f := fun f e => hlo ⟨f, e⟩
        rw [dataReadRow_reg hsel hne hport]
        exact exec_registerRead_atReg ⟨hp, hsel⟩ hne hport

/-! ### The rows by unit and index (Tables 11-3 to 11-6) -/

/-- The indexes of the low bytes of 16-bit fields in a unit's map. -/
def UnitId.lowByteAt (u : UnitId) (i : Nat) : Bool :=
  match u with
  | .global => i == 4
  | .link => false
  | .cycle => i == 4 || i == 6 || i == 0xC
  | .modules => i == 6 || i == 8 || i == 0xB || i == 0x10 || i == 0x18
  | .image => i == 0xE
  | .slots => i == 0xA || i == 0xC || i == 0x32 || i == 0x3D || i == 0x3F
  | .areas => i == 0xA || i == 0xC || i == 0xE || i == 0x10 || i == 0x12
  | .notices => i == 0xA

/-- The class of the register at an index of a unit's map, past COMMAND; a plain register and a read-only one, which are
written by the same row, are not told apart. -/
def UnitId.classAt (u : UnitId) (select : Fin 4) (i : Nat) : WriteClass :=
  match u with
  | .global => if i = 9 then .clearing else if i = 0xA then .intEnable else if i = 0xB then .attnEnable else .readOnly
  | .link => if 5 ≤ i ∧ i ≤ 7 then .linkConfig else .readOnly
  | .cycle =>
    if 4 ≤ i ∧ i ≤ 5 then .cycleLength else if i = 9 then .searchVacant
    else if i = 0x20 ∨ (0x40 ≤ i ∧ i ≤ 0x5F) then .scanList else .readOnly
  | .modules => if 6 ≤ i ∧ i ≤ 0xE then .moduleField else .readOnly
  | .image =>
    if i = 6 then .follow else if i = 0xC then .deadline
    else if (0x40 ≤ i ∧ i ≤ 0x7F) ∧ select = 2 then .staging else .readOnly
  | .slots =>
    if 4 ≤ i ∧ i ≤ 5 then .exchangeLimit
    else if (8 ≤ i ∧ i ≤ 0x10) ∨ (0x20 ≤ i ∧ i ≤ 0x2F) then .slotField else .readOnly
  | .areas => if 4 ≤ i ∧ i ≤ 7 then .stagedSize else if i = 8 then .dataPort else .readOnly
  | .notices => .readOnly

/-- A plain register is written by the row of a read-only one, REGISTER_WRITE. -/
def WriteClass.rowClass : WriteClass → WriteClass
  | .plain => .readOnly
  | c => c

theorem classRow_rowClass (v : Byte) (c : WriteClass) : classRow v c.rowClass = classRow v c := by cases c <;> rfl

/-- At an index of a unit: the register there, if there is one, is of the class and of the kind of read that the tables
give. -/
def rowsLawful (u : UnitId) (i : Nat) : Bool :=
  match regAt u i with
  | none => true
  | some r =>
    (i == 0 || decide (∀ select, (r.writeClass select).rowClass = u.classAt select i)) &&
    (match r with
      | .lo _ => u.lowByteAt i
      | .dataPort => !u.lowByteAt i && u == .areas && i == 8
      | _ => !u.lowByteAt i && !(u == .areas && i == 8))

theorem rowsLawful_all (u : UnitId) : ∀ i : Fin 256, rowsLawful u i.val = true := by
  cases u <;> decide +kernel

theorem State.selection_noUnit {s : State} (h : unitOf s.window.unit = none) : s.selection = .noUnit := by
  simp only [State.selection, RegisterWindow.selection, h]

theorem State.selection_noIndex {s : State} {u : UnitId} (hu : unitOf s.window.unit = some u)
    (h : regAt u s.window.index.toNat = none) : s.selection = .noIndex := by
  simp only [State.selection, RegisterWindow.selection, hu, h]

theorem State.selection_reg {s : State} {u : UnitId} {r : Reg} (hu : unitOf s.window.unit = some u)
    (h : regAt u s.window.index.toNat = some r) : s.selection = .reg r := by
  simp only [State.selection, RegisterWindow.selection, hu, h]

/-- Past index 00h a DATA write is the row of the class that the unit's map gives the index. -/
theorem dataWriteRow_classAt {s : State} {u : UnitId} {r : Reg} (v : Byte) (hu : unitOf s.window.unit = some u)
    (hr : regAt u s.window.index.toNat = some r) (h0 : s.window.index.toNat ≠ 0) :
    dataWriteRow s v = classRow v (u.classAt s.image.select s.window.index.toNat) := by
  have hmap := mapRowsLawful u ⟨s.window.index.toNat, s.window.index.isLt⟩
  have hrow := rowsLawful_all u ⟨s.window.index.toNat, s.window.index.isLt⟩
  simp only [rowsLawful, hr, Bool.and_eq_true, Bool.or_eq_true, beq_iff_eq, decide_eq_true_eq] at hrow
  have hne : ∀ w, r ≠ .command w := by
    rintro w rfl
    simp only [mapRowLawful, hr, Bool.and_eq_true, beq_iff_eq] at hmap
    exact h0 hmap.2.2
  rw [dataWriteRow_reg v (State.selection_reg hu hr) hne, ← classRow_rowClass, hrow.1.resolve_left h0]

/-- A DATA read is the row that the unit's map gives the index. -/
theorem dataReadRow_at {s : State} {u : UnitId} {r : Reg} (hu : unitOf s.window.unit = some u)
    (hr : regAt u s.window.index.toNat = some r) :
    dataReadRow s = if u.lowByteAt s.window.index.toNat = true then .lowByteRead
      else if u = .areas ∧ s.window.index.toNat = 8 then .dataPortRead else .registerRead := by
  have hsel := State.selection_reg hu hr
  have hrow := rowsLawful_all u ⟨s.window.index.toNat, s.window.index.isLt⟩
  simp only [rowsLawful, hr, Bool.and_eq_true] at hrow
  obtain ⟨-, hread⟩ := hrow
  cases r with
  | lo f => rw [if_pos hread, dataReadRow, hsel]
  | dataPort =>
    simp only [Bool.and_eq_true, Bool.not_eq_true', beq_iff_eq] at hread
    rw [if_neg (by simp [hread.1.1]), if_pos ⟨hread.1.2, hread.2⟩, dataReadRow, hsel]
  | _ =>
    simp only [Bool.and_eq_true, Bool.not_eq_true', Bool.and_eq_false_iff, beq_eq_false_iff_ne] at hread
    rw [if_neg (by simp [hread.1]), if_neg (fun h => hread.2.elim (fun e => e h.1) (fun e => e h.2))]
    exact dataReadRow_reg hsel (by simp) (by simp)

/-- Settles O10: each access completes by the row of its register's class, and the rows are those of the unit maps. -/
theorem everyDataAccessMovesIndex : Obligations.EveryDataAccessMovesIndex := by
  unfold Obligations.EveryDataAccessMovesIndex
  refine ⟨fun v s hp ha => ?_, fun v s hu => ?_, fun u v s hu => ?_⟩
  · obtain ⟨t, ht, ⟨htunit, htindex⟩, htlatch⟩ := exec_dataWriteRow v hp ha
    obtain ⟨w, hw, hwunit, hwindex⟩ := exec_dataReadRow hp ha
    refine ⟨t, w, ht, hw, htunit, hwunit, htlatch, ?_⟩
    rintro x (rfl | rfl)
    · rw [htindex, RegisterWindow.nextIndex_eq]
    · rw [hwindex, RegisterWindow.nextIndex_eq]
  · have hsel := State.selection_noUnit hu
    exact ⟨by rw [dataWriteRow, hsel], by rw [dataReadRow, hsel]⟩
  · intro i span lowByte write
    refine ⟨fun hr => ?_, fun hr => ?_⟩
    · have hsel := State.selection_noIndex hu hr
      exact ⟨by rw [dataWriteRow, hsel], by rw [dataReadRow, hsel]⟩
    · obtain ⟨r, hr⟩ := Option.ne_none_iff_exists'.mp hr
      refine ⟨fun h0 => ?_, dataReadRow_at hu hr⟩
      have hwrite : classRow v (u.classAt s.image.select i) = write := by
        cases u <;> simp only [write, span, UnitId.classAt, apply_ite (classRow v), decide_eq_true_eq] <;> rfl
      exact (dataWriteRow_classAt v hu hr h0).trans hwrite

end Sys2Proof.Machine
end

section
/-! SUPPORT. The start and the end of a cycle: the image unit's step by commit and deadline, in whole states; and the
statements on them. -/

namespace Sys2Proof.Machine

/-! ### The image unit's cycle-start step (R102, R103) -/

theorem imageCycleStart_commit {s : State} (h : s.image.commitPending = true) :
    imageCycleStart s = { s with image := s.image.applyCommit } := if_pos h

theorem imageCycleStart_noCommit {s : State} (h : s.image.commitPending = false) :
    imageCycleStart s = advanceSupervision s := if_neg (by simp [h])

/-- Deadline 0: supervision is off. -/
theorem advanceSupervision_off {s : State} (h : s.image.deadline = 0#8) : advanceSupervision s = s := if_pos h

/-- Short of the deadline, or with outputs that are not valid, supervision only counts. -/
theorem advanceSupervision_counts {s : State} (h : s.image.deadline ≠ 0#8)
    (hx : ¬ (s.image.deadline.toNat ≤ min 255 (s.image.supervision + 1) ∧ s.image.outputsValid = true)) :
    advanceSupervision s =
      { s with image := { s.image with supervision := min 255 (s.image.supervision + 1) } } :=
  (if_neg h).trans (if_neg (by simpa using hx))

/-- At the deadline outputs that were valid expire. -/
theorem advanceSupervision_expires {s : State} (h : s.image.deadline ≠ 0#8)
    (hx : s.image.deadline.toNat ≤ min 255 (s.image.supervision + 1) ∧ s.image.outputsValid = true) :
    advanceSupervision s =
      { s with
        image := { s.image with supervision := min 255 (s.image.supervision + 1), outputsValid := false }
        notices := (s.notices.offer s.sched.cycleCounter (.outputExpired s.image.deadline)).raise .outputExpired } :=
  (if_neg h).trans (if_pos (by simpa using hx))

/-! ### The cycle start (R42) -/

/-- The state in which the image unit takes its cycle-start step: the new cycle's counter, timer and scan position, and
no deferral. -/
def cycleBegun (late : Bool) (s : State) : State := clearDeferrals { s with sched := s.sched.beginCycle late }

/-- Image and notice unit after a cycle start are those that the image unit's step leaves. -/
theorem cycleStart_imageStep {late : Bool} {s v : State} (h : imageCycleStart (cycleBegun late s) = v) :
    (cycleStart late s).image = v.image ∧ (cycleStart late s).notices = v.notices := by
  subst h
  exact ⟨rfl, rfl⟩

/-- Settles O20: scheduler, slots and line by their own lemmas, the image unit's step case by case. -/
theorem cycleStartSteps : Obligations.CycleStartSteps := by
  unfold Obligations.CycleStartSteps
  refine ⟨fun late s => ?_, fun s hc => ?_⟩
  · intro t
    obtain ⟨hwindow, hlink, htable, hareas, -⟩ := cycleStart_frame late s
    have hsched : t.sched = { s.sched.beginCycle late with stage := .mark, forSlot := none } := cycleStart_sched late s
    rw [hsched]
    refine ⟨rfl, congrArg CycleTimer.running (Nat.mul_comm _ _), cycleStart_slotAt late s, rfl, rfl, rfl, rfl, rfl,
      cycleStart_line late s, fun hc => cycleStart_imageStep (imageCycleStart_commit hc), fun hc => ?_, htable, hareas,
      hlink, hwindow, rfl, rfl, rfl⟩
    have hstep : imageCycleStart (cycleBegun late s) = advanceSupervision (cycleBegun late s) :=
      imageCycleStart_noCommit hc
    exact ⟨fun h => cycleStart_imageStep (v := cycleBegun late s) (hstep.trans (advanceSupervision_off h)),
      fun h hx => cycleStart_imageStep (hstep.trans (advanceSupervision_counts h hx)),
      fun h hx => cycleStart_imageStep (hstep.trans (advanceSupervision_expires h hx))⟩
  · intro count
    rw [imageCycleStart_noCommit hc]
    refine ⟨advanceSupervision_off, fun h hx => advanceSupervision_counts h fun ⟨hle, hv⟩ => ?_,
      fun h hle hv => advanceSupervision_expires h ⟨hle, hv⟩⟩
    rcases hx with hlt | hinvalid
    · exact absurd hle (Nat.not_le.mpr hlt)
    · exact absurd (hv.symm.trans hinvalid) (by simp)

/-! ### The cycle end (R47) -/

/-- The image unit after a cycle end is that of the copy, made with the ages of this end (R94). -/
theorem cycleEnd_image (x : CycleStatus) (c : Nat) (s : State) :
    (cycleEnd x c s).image = (cycleEndCopy (updateAges s)).image := by
  simp [cycleEnd]

theorem ImageUnit.copyDue_iff (i : ImageUnit) :
    i.copyDue = true ↔ i.freeze = false ∧ (i.follow = true ∨ i.snapshotPending = true) := by
  simp [ImageUnit.copyDue]

/-- The copy of a cycle end: live image, ages of the module table and cycle number (R94, R98). -/
theorem cycleEnd_copied (x : CycleStatus) (c : Nat) {s : State} (h : s.image.copyDue = true) :
    (cycleEnd x c s).image = { s.image with
      held := s.image.live
      heldAges := mapVec (fun m : ModuleRecord => m.age) (cycleEnd x c s).table.records
      heldCycle := s.sched.cycleCounter
      snapshotPending := false } := by
  rw [cycleEnd_image, cycleEnd_table, cycleEndCopy, updateAges_image, if_pos h]
  rfl

theorem cycleEnd_notCopied (x : CycleStatus) (c : Nat) {s : State} (h : s.image.copyDue = false) :
    (cycleEnd x c s).image = s.image := by
  rw [cycleEnd_image, cycleEndCopy, updateAges_image, if_neg (by simp [h]), updateAges_image]

theorem ModuleState.ages_iff (st : ModuleState) :
    st.ages = true ↔ st = .present ∨ st = .suspect ∨ st = .lost := by
  cases st <;> simp [ModuleState.ages]

/-- Settles O21: each block of the cycle end by its own lemma, the copy by whether it is due. -/
theorem cycleEndSteps : Obligations.CycleEndSteps := by
  unfold Obligations.CycleEndSteps
  intro status cut s t
  obtain ⟨hwindow, hline, hlink, hexch, hareas, -⟩ := cycleEnd_frame status cut s
  obtain ⟨hlive, hstaging, hactive, -⟩ := cycleEnd_kept status cut s
  have hnotices := cycleEnd_notices status cut s
  refine ⟨fun k => ?_, fun hf hd => ?_, fun hn => cycleEnd_notCopied status cut ?_, hlive, hstaging, hactive,
    cycleEnd_sched status cut s, fun hs => ?_, fun hs => ?_, hline, hlink, hexch, hareas, hwindow⟩
  · have hdue : ((s.moduleAt k).state.ages && !(s.moduleAt k).refreshed) = true ↔
        ((s.moduleAt k).state = .present ∨ (s.moduleAt k).state = .suspect ∨ (s.moduleAt k).state = .lost) ∧
          (s.moduleAt k).refreshed = false := by
      rw [Bool.and_eq_true, ModuleState.ages_iff, Bool.not_eq_true']
    rw [cycleEnd_moduleAt, ModuleRecord.aged, if_congr hdue rfl rfl]
  · have hcopied : t.image = _ := cycleEnd_copied status cut ((ImageUnit.copyDue_iff _).mpr ⟨hf, hd⟩)
    rw [hcopied]
    exact ⟨rfl, fun k => mapVec_getFin _ _ k, rfl, rfl⟩
  · rw [Bool.eq_false_iff, ne_eq, ImageUnit.copyDue_iff]
    rintro ⟨hf, hd⟩
    rcases hn with hn | ⟨hfollow, hsnap⟩
    · exact absurd (hn.symm.trans hf) (by simp)
    · simp [hfollow, hsnap] at hd
  · rw [if_neg hs] at hnotices
    exact hnotices
  · rw [if_pos hs] at hnotices
    exact hnotices

end Sys2Proof.Machine
end

section
/-! SUPPORT. The scheduler's searches: the walk's next entry, the cancel candidate, the queued slot alone and the probe
candidate, each found as the first of its order; and the statements on them. -/

namespace Sys2Proof.Machine

/-! ### The walk (R45) -/

/-- The module in service that an entry names. -/
theorem entryInService_eq_some {s : State} {p : Nat} {k : Fin 30} (hk : (s.scanEntry p).toNat = moduleAddress k)
    (hs : (s.moduleAt k).state.inService = true) : entryInService s p = some k := by
  rw [entryInService, hk, moduleIndex_address]
  exact Option.filter_some_pos hs

/-- An entry is passed over where every module it names is out of service. -/
theorem entryInService_eq_none {s : State} {p : Nat}
    (h : ∀ j : Fin 30, (s.scanEntry p).toNat = moduleAddress j → (s.moduleAt j).state.inService = false) :
    entryInService s p = none := by
  rw [entryInService, Option.filter_eq_none_iff]
  intro j hj
  simp [h j (moduleIndex_eq_some.mp hj)]

/-- The walk's positions from the scan position on, cut at one of them. -/
theorem scanPositions_split {s : State} {p : Nat} (hfrom : s.sched.scanPos ≤ p) (hto : p < s.sched.scanLength.toNat) :
    List.range' s.sched.scanPos s.entriesLeft = List.range' s.sched.scanPos (p - s.sched.scanPos) ++
      p :: List.range' (p + 1) (s.sched.scanLength.toNat - (p + 1)) := by
  have hlen : s.entriesLeft = (p - s.sched.scanPos) + ((s.sched.scanLength.toNat - (p + 1)) + 1) := by
    unfold State.entriesLeft
    omega
  rw [hlen, ← List.range'_append_1, Nat.add_sub_cancel' hfrom, List.range'_succ]

/-- The first entry whose module is in service. -/
theorem nextEntry_eq_some {s : State} {p : Nat} {k : Fin 30} (hfrom : s.sched.scanPos ≤ p)
    (hto : p < s.sched.scanLength.toNat) (hp : entryInService s p = some k)
    (hbefore : ∀ q, s.sched.scanPos ≤ q → q < p → entryInService s q = none) : nextEntry s = some (p, k) := by
  have hnone : (List.range' s.sched.scanPos (p - s.sched.scanPos)).findSome?
      (fun q => (entryInService s q).map (fun j => (q, j))) = none := by
    rw [List.findSome?_eq_none_iff]
    intro q hq
    obtain ⟨hq1, hq2⟩ := List.mem_range'_1.mp hq
    rw [hbefore q hq1 (by omega), Option.map_none]
  rw [nextEntry, scanPositions_split hfrom hto, List.findSome?_append, hnone, List.findSome?_cons, hp]
  rfl

theorem nextEntry_eq_none {s : State}
    (h : ∀ q, s.sched.scanPos ≤ q → q < s.sched.scanLength.toNat → entryInService s q = none) :
    nextEntry s = none := by
  rw [nextEntry, List.findSome?_eq_none_iff]
  intro q hq
  obtain ⟨hq1, hq2⟩ := List.mem_range'_1.mp hq
  rw [h q hq1 (by unfold State.entriesLeft at hq2; omega), Option.map_none]

theorem walk_scans {s : State} {p : Nat} {k : Fin 30} (h : nextEntry s = some (p, k)) :
    walk s = startTxn (scanRequest k s) { s with sched := { s.sched with scanPos := p } } := by
  rw [walk, h]

theorem walk_ends {s : State} (h : nextEntry s = none) :
    walk s = enterAcyclic (cycleEnd .complete 0
      { s with sched := { s.sched with scanPos := s.sched.scanLength.toNat } }) := by
  rw [walk, h]

/-- Settles O23: the walk's search at its first hit, and with none. -/
theorem walkScansNextModuleInService : Obligations.WalkScansNextModuleInService := by
  unfold Obligations.WalkScansNextModuleInService
  intro s
  refine ⟨fun p k hfrom hto _ hk hs hbefore => ?_, fun hall => ?_⟩
  · exact walk_scans (nextEntry_eq_some hfrom hto (entryInService_eq_some hk hs)
      fun q hq1 hq2 => entryInService_eq_none (hbefore q hq1 hq2))
  · exact walk_ends (nextEntry_eq_none fun q hq1 hq2 => entryInService_eq_none (hall q hq1 hq2))

/-! ### The cancel candidate (R51, R52) -/

/-- The tag of a module that is a cancel candidate. -/
theorem cancelTag_eq_some {s : State} {k : Fin 30} {tag : Half} (hh : (s.moduleAt k).holder = .cancelPending tag)
    (hs : (s.moduleAt k).state.inService = true) (hd : k ∉ s.sched.cancelDeferred) : cancelTag s k = some tag := by
  simp [cancelTag, hh, hs, hd]

/-- The cancel candidate with the lowest module address. -/
theorem cancelCandidate_eq_some {s : State} {k : Fin 30} {tag : Half} (hk : cancelTag s k = some tag)
    (hbefore : ∀ j, j < k → cancelTag s j = none) : cancelCandidate s = some (k, tag) := by
  obtain ⟨a, b, hab, ha⟩ := allModules_split k
  have hnone : a.findSome? (fun j => (cancelTag s j).map (fun t => (j, t))) = none := by
    rw [List.findSome?_eq_none_iff]
    intro j hj
    rw [hbefore j (ha j hj), Option.map_none]
  rw [cancelCandidate, hab, List.findSome?_append, hnone, List.findSome?_cons, hk]
  rfl

/-- The cost of a CANCEL (R21, R54). -/
theorem cancelCost_eq (window : Nat) : requestCost window .cancel 2 0 = 162 + window := by
  simp only [requestCost, txnCost, replyAllowance, Config.gapBits, Config.characterBits]
  omega

theorem acyclicPick_cancel {s : State} {k : Fin 30} {tag : Half} (h : cancelCandidate s = some (k, tag)) :
    acyclicPick s = if 162 + s.line.replyWindow.toNat ≤ s.budget then startTxn (cancelRequest k tag) s
      else probeStage s := by
  rw [acyclicPick, h]
  simp only [cancelCost_eq]
  rfl

/-! ### The only active slot (R53, R54, R119) -/

/-- A slot FREE or ended is not eligible. -/
theorem slotEligible_inactive {m : Fin 8} {s : State}
    (h : (s.slotAt m).state = .free ∨ (s.slotAt m).state.ended = true) : slotEligible m s = false := by
  unfold slotEligible
  cases hs : (s.slotAt m).state <;> simp [hs, SlotState.ended] at h ⊢

/-- Judged gates that leave every slot leave the state. -/
theorem judgeSlots_eq_self {l : List (Fin 8)} {s : State} (h : ∀ m, (judgeSlots l s).slotAt m = s.slotAt m) :
    judgeSlots l s = s := by
  have hslots : (judgeSlots l s).exch.slots = s.exch.slots := Vector.ext fun i hi => h ⟨i, hi⟩
  rw [judgeSlots_eq, hslots]

/-- The only active slot, QUEUED and eligible, is started if it fits; no gate is judged on the way. -/
theorem acyclicPick_onlyQueued {n : Fin 8} {s : State} (hc : cancelCandidate s = none)
    (hn : slotEligible n s = true) (hq : (s.slotAt n).state = .queued)
    (hothers : ∀ m, m ≠ n → (s.slotAt m).state = .free ∨ (s.slotAt m).state.ended = true) :
    acyclicPick s = if slotCost n s ≤ s.budget then startSlot n s else probeStage s := by
  have hbefore : ∀ m, (m - s.sched.rrPtr - 1).val < (n - s.sched.rrPtr - 1).val → slotEligible m s = false :=
    fun m hm => slotEligible_inactive (hothers m fun e => absurd (e ▸ hm) (Nat.lt_irrefl _))
  obtain ⟨l, hpick, hown, hpassed⟩ := acyclicPick_taken hc hn hbefore
  have hself : judgeSlots l s = s := judgeSlots_eq_self fun m => by
    by_cases hm : m = n
    · rw [hm, hown, if_neg (by simp [hq])]
      rfl
    · refine (hpassed m hm).trans (if_neg ?_)
      rintro ⟨-, htransferring, -⟩
      simpa [htransferring, SlotState.ended] using hothers m hm
  rw [hpick, hself]

/-- Settles O24: the lowest candidate's CANCEL, then the queued slot's OPEN, each if it fits the budget. -/
theorem acyclicPickTakesCancelThenQueuedHead : Obligations.AcyclicPickTakesCancelThenQueuedHead := by
  unfold Obligations.AcyclicPickTakesCancelThenQueuedHead
  refine ⟨fun s k tag hh hs hd hbefore => ?_, fun s n k rest hcancel hothers hq hk hw hs hh => ?_⟩
  · have hpick := acyclicPick_cancel (cancelCandidate_eq_some (cancelTag_eq_some hh hs hd)
      fun j hj => cancelTag_eq_none fun other => hbefore j other hj)
    exact ⟨fun hfits => hpick.trans (if_pos hfits), fun hover => hpick.trans (if_neg (Nat.not_le.mpr hover))⟩
  · intro cost
    have hn : slotEligible n s = true := (slotEligible_iff n s).mpr
      (Or.inl ⟨hq, (queuedEligible_iff n _ s).mpr ⟨k, hk, by rw [hw]; rfl, hs, hh⟩⟩)
    have hrequest : slotRequestOf (s.slotAt n) s = .openExchange := by simp [slotRequestOf, hq]
    have hpiece : (slotRequestOf (s.slotAt n) s).takesPiece 0 := by simp [hrequest, SlotRequest.takesPiece]
    have hcost : slotCost n s = cost := by
      rw [slotCost_eq hpiece, hrequest, Nat.add_comm]
      rfl
    have hpick := acyclicPick_onlyQueued (cancelCandidate_eq_none hcancel) hn hq hothers
    rw [hcost] at hpick
    refine ⟨fun hfits => ⟨_, hpick.trans (if_pos hfits), ?_, ?_, startSlot_sched n s, ?_,
      fun m hm => startSlot_other s hm, fun j hj => ?_, ?_⟩,
      fun hover => hpick.trans (if_neg (Nat.not_le.mpr hover))⟩
    · rw [startSlot_own, hrequest, if_pos hq, if_pos hq]
    · rw [startSlot_moduleAt_named hk, if_pos ⟨rfl, hq⟩, ModuleRecord.claim, hw]
      rfl
    · rw [startSlot_line, hrequest, slotTxn_txn n s hk (hrequest ▸ hpiece)]
      rfl
    · rw [startSlot_moduleAt_named hk, if_neg fun e => hj e.1]
    · obtain ⟨hwindow, hlink, himage, hareas, hnotices, -⟩ := startSlot_frame n s
      exact ⟨himage, hareas, hnotices, hlink, hwindow⟩

/-! ### The probe stage (R56, R57) -/

theorem probeCandidate_iff (s : State) (k : Fin 30) : probeCandidate s k = true ↔
    (s.moduleAt k).state = .expected ∨ (s.moduleAt k).state = .lost ∨
      ((s.moduleAt k).state = .vacant ∧ s.sched.searchVacant = true) := by
  unfold probeCandidate
  cases (s.moduleAt k).state <;> simp

/-- The cost of a PROBE (R21). -/
theorem probeCost_eq (window : Nat) : requestCost window .probe 0 0 = 182 + window := by
  simp only [requestCost, txnCost, replyAllowance, Config.gapBits, Config.characterBits]
  omega

/-- The first candidate after the rotation pointer. -/
theorem probeOrder_find_first {s : State} {p k : Fin 30} (hk : probeCandidate s k = true)
    (hbefore : ∀ j, (j - p - 1).val < (k - p - 1).val → probeCandidate s j = false) :
    (probeOrder p).find? (probeCandidate s) = some k := by
  obtain ⟨a, b, hab, ha⟩ := probeOrder_split p k
  have hnone : a.find? (probeCandidate s) = none := List.find?_eq_none.mpr fun j hj => by
    rw [hbefore j (ha j hj)]
    exact Bool.false_ne_true
  rw [hab, List.find?_append, hnone, List.find?_cons_of_pos hk]
  rfl

theorem probeStage_candidate {s : State} {k : Fin 30}
    (h : (probeOrder s.sched.probePtr).find? (probeCandidate s) = some k) :
    probeStage s = if 182 + s.line.replyWindow.toNat ≤ s.budget then
        startTxn (probeRequest k) { s with sched := { s.sched with stage := .probe, probePtr := k } }
      else enterRest s := by
  rw [probeStage, h]
  simp only [probeCost_eq]
  rfl

theorem probeStage_noCandidate {s : State} (h : ∀ k, probeCandidate s k = false) : probeStage s = enterRest s := by
  have hnone : (probeOrder s.sched.probePtr).find? (probeCandidate s) = none :=
    List.find?_eq_none.mpr fun k _ => by
      rw [h k]
      exact Bool.false_ne_true
  rw [probeStage, hnone]

/-- Settles O26: the stage at its first candidate, by the budget, and with no candidate. -/
theorem probeStageTakesNextCandidate : Obligations.ProbeStageTakesNextCandidate := by
  unfold Obligations.ProbeStageTakesNextCandidate
  intro s candidate p
  have hno : ∀ k, ¬ candidate k → probeCandidate s k = false := fun k hk =>
    Bool.eq_false_iff.mpr fun h => hk ((probeCandidate_iff s k).mp h)
  refine ⟨fun k hk hbefore => ?_, fun hall => probeStage_noCandidate fun k => hno k (hall k)⟩
  have hstage := probeStage_candidate (probeOrder_find_first ((probeCandidate_iff s k).mpr hk)
    fun j hj => hno j (hbefore j hj))
  exact ⟨fun hfits => hstage.trans (if_pos hfits), fun hover => hstage.trans (if_neg (Nat.not_le.mpr hover))⟩

end Sys2Proof.Machine
end

section
/-! SUPPORT. The routing of an outcome to its owners: failure counting outcome by outcome, the loss of a module at its
slots and notices, and the CANCEL; and the statements on them. -/

namespace Sys2Proof.Machine

/-! ### Failure counting by outcome (R67, R70) -/

/-- The outcomes that count a failure (R67). -/
def TxnOutcome.isError (o : TxnOutcome) : Prop := o = .timeout ∨ o = .corrupt ∨ o = .stray

/-- A module out of service is not counted, and an echo fault or a cut counts nothing. -/
theorem countOutcome_unchanged {k : Fin 30} {o : TxnOutcome} {s : State}
    (h : (s.moduleAt k).state.inService = false ∨ o = .echoFault ∨ o = .abandoned) : countOutcome k o s = s := by
  rcases h with h | rfl | rfl
  · exact if_neg (by simp [h])
  · exact ite_self s
  · exact ite_self s

theorem countOutcome_reply {k : Fin 30} {s : State} (r : Option Reply) (h : (s.moduleAt k).state.inService = true) :
    countOutcome k (.reply r) s = s.setModule k { s.moduleAt k with failCount := 0, state := .present } := if_pos h

theorem countOutcome_error {k : Fin 30} {o : TxnOutcome} {s : State} (ho : o.isError)
    (h : (s.moduleAt k).state.inService = true) : countOutcome k o s = countFailure k s := by
  rcases ho with rfl | rfl | rfl <;> exact if_pos h

theorem countOutcome_other {j k : Fin 30} (o : TxnOutcome) (s : State) (h : j ≠ k) :
    (countOutcome k o s).moduleAt j = s.moduleAt j := by
  unfold countOutcome
  split
  · cases o with
    | reply r => exact State.moduleAt_setModule_other s _ h
    | timeout | corrupt | stray => exact countFailure_other s h
    | echoFault | abandoned => rfl
  · rfl

/-- A SCAN in error is counted and nothing else. -/
theorem takeScan_error {k : Fin 30} {o : TxnOutcome} {s : State} (ho : o.isError) :
    takeScan k o s = countOutcome k o s := by
  rcases ho with rfl | rfl | rfl <;> rfl

/-- A SCAN of a module out of service, in an echo fault or cut changes nothing at its owners (R70). -/
theorem takeScan_unchanged {k : Fin 30} {o : TxnOutcome} {s : State}
    (h : (s.moduleAt k).state.inService = false ∨ o = .echoFault ∨ o = .abandoned) : takeScan k o s = s := by
  match o with
  | .reply (some r) =>
    rcases h with h | h | h
    · exact if_neg (by simp [h])
    · cases h
    · cases h
  | .reply none => rfl
  | .timeout | .corrupt | .stray => exact countOutcome_unchanged h
  | .echoFault => rfl
  | .abandoned => rfl

/-! ### The loss of a module (R69) -/

/-- The record a module enters LOST with. -/
def ModuleRecord.lostBy (threshold : Nat) (m : ModuleRecord) : ModuleRecord :=
  { m with state := .lost, failCount := threshold, holder := .none, cancelHold := 0, waiting := [] }

/-- The SLOT_ENDED notices of slots lost with their module. -/
def State.lostSlotNotices (s : State) (l : List (Fin 8)) : List NoticeBody :=
  l.map fun j => .slotEnded j .failed .moduleLost (s.slotAt j).run.abortRequested

theorem enterLost_own (k : Fin 30) (c : ModuleCause) (s : State) :
    (enterLost k c s).moduleAt k = (s.moduleAt k).lostBy s.link.threshold.toNat := by
  rw [enterLost_moduleAt, if_pos rfl]
  rfl

theorem enterLost_other {j k : Fin 30} (c : ModuleCause) (s : State) (h : j ≠ k) :
    (enterLost k c s).moduleAt j = s.moduleAt j := by
  rw [enterLost_moduleAt, if_neg h]

theorem allSlots_filter_eq (n : Fin 8) : allSlots.filter (fun j => Holder.slot n = .slot j) = [n] := by
  revert n
  decide

theorem enterLost_notices_filter (k : Fin 30) (c : ModuleCause) (s : State) :
    (enterLost k c s).notices = s.notices.offerAll s.sched.cycleCounter
      (.moduleState k (s.moduleAt k).state .lost c :: s.lostSlotNotices
        (allSlots.filter (fun j => (s.moduleAt k).holder = .slot j) ++ (s.moduleAt k).waiting)) := by
  rw [enterLost_notices, State.lostSlotNotices, List.map_append]
  cases (s.moduleAt k).holder with
  | slot n => rw [allSlots_filter_eq]; rfl
  | none => rfl
  | cancelPending tag => rfl

/-- The loss of a module whose cancel is pending: no slot holds it, so the waiting slots alone end. -/
theorem enterLost_cancelPending {k : Fin 30} {tag : Half} {s : State} (c : ModuleCause)
    (h : (s.moduleAt k).holder = .cancelPending tag) :
    (∀ j, (enterLost k c s).slotAt j =
      if j ∈ (s.moduleAt k).waiting then (s.slotAt j).atEnd .failed .moduleLost else s.slotAt j) ∧
    (enterLost k c s).notices = s.notices.offerAll s.sched.cycleCounter
      (.moduleState k (s.moduleAt k).state .lost c :: s.lostSlotNotices (s.moduleAt k).waiting) := by
  refine ⟨fun j => ?_, ?_⟩
  · rw [enterLost_slotAt, h]
    exact if_congr (or_iff_right (by simp)) rfl rfl
  · rw [enterLost_notices, h]
    rfl

/-! ### The routing by request (R58) -/

theorem routeOutcome_module {t : Txn} {k : Fin 30} (o : TxnOutcome) (s : State) (h : t.address = moduleAddress k) :
    routeOutcome t o s = { routeTo t.kind k o s with
      sched := { (routeTo t.kind k o s).sched with forSlot := none } } := by
  simp only [routeOutcome, h, moduleIndex_address]

/-- A slot's request: the module table, then the exchange unit (R58, R60). -/
theorem routeTo_slot {q : RequestKind} {n : Fin 8} {s : State} (k : Fin 30) (o : TxnOutcome)
    (hq : q = .openExchange ∨ q = .put ∨ q = .fetch ∨ q = .close) (hn : s.sched.forSlot = some n) :
    routeTo q k o s = takeSlotOutcome n o (countOutcome k o s) := by
  have hroute : routeSlot k o s = takeSlotOutcome n o (countOutcome k o s) := by rw [routeSlot, hn]
  rcases hq with rfl | rfl | rfl | rfl <;> exact hroute

/-- A probe that no IDENT answers changes nothing (R58, R71). -/
theorem takeProbe_noReply {k : Fin 30} {o : TxnOutcome} {s : State} (h : ∀ r : Reply, o ≠ .reply (some r)) :
    takeProbe k o s = s := by
  match o with
  | .reply (some r) => exact absurd rfl (h r)
  | .reply none | .timeout | .corrupt | .stray | .echoFault | .abandoned => rfl

/-- A slot that the module table has ended takes no outcome: its request in flight is removed alone (R146). -/
theorem takeSlotOutcome_ended {n : Fin 8} (o : TxnOutcome) {s : State} (hq : (s.slotAt n).inFlight ≠ none)
    (ht : (s.slotAt n).takesOutcome = false) : takeSlotOutcome n o s = s.setSlot n (s.slotAt n).requestGone := by
  obtain ⟨q, hq⟩ := Option.ne_none_iff_exists'.mp hq
  simp only [takeSlotOutcome, hq, ht, Bool.false_and, Bool.false_eq_true, if_false]
  rfl

/-- The loss of a module by the outcome of its holder slot: the slot ends with the module, and its own counting does not
take place (R69, R124, R146). -/
theorem takeSlotOutcome_lost {n : Fin 8} {k : Fin 30} {s : State} (c : ModuleCause) (o : TxnOutcome)
    (hh : (s.moduleAt k).holder = .slot n) (hq : (s.slotAt n).inFlight ≠ none) :
    takeSlotOutcome n o (enterLost k c s) =
      (enterLost k c s).setSlot n ((s.slotAt n).atEnd .failed .moduleLost).requestGone := by
  have hslot : (enterLost k c s).slotAt n = (s.slotAt n).atEnd .failed .moduleLost := by
    rw [enterLost_slotAt, if_pos (Or.inl hh)]
  rw [takeSlotOutcome_ended o (by rw [hslot]; exact hq) (by rw [hslot]; rfl), hslot]

/-- Settles O27: the routing by the request's kind, the counting by outcome and threshold, the loss by its lemmas. -/
theorem outcomesRoutedToOwners : Obligations.OutcomesRoutedToOwners := by
  unfold Obligations.OutcomesRoutedToOwners
  intro t o s close
  refine ⟨fun _ ha => routeOutcome_broadcast o s ha, fun k hk => ?_⟩
  have hroute := routeOutcome_module o s hk
  refine ⟨fun hkind => ?_, fun hkind => ?_, fun hkind => by rw [hroute, hkind]; rfl, fun hkind n hn => ?_⟩
  · intro m u error
    have hsched : u.sched = s.sched := (takeScan_frame k o s).2.2.2.1
    refine ⟨?_, takeScan_unchanged, fun hs ho hlt => ?_, fun hs ho hle => ?_⟩
    · rw [routeOutcome_scan o s hkind hk, ← hsched]
      rfl
    · exact (takeScan_error ho).trans ((countOutcome_error ho hs).trans (countFailure_below hlt))
    · have hu : u = enterLost k .failures s :=
        (takeScan_error ho).trans ((countOutcome_error ho hs).trans (countFailure_limit hle))
      obtain ⟨hwindow, hline, hlink, -, himage, hareas, -⟩ := enterLost_frame k .failures s
      rw [hu]
      exact ⟨enterLost_own k _ s, enterLost_slotAt k _ s, enterLost_notices_filter k _ s,
        fun j hj => enterLost_other _ s hj, himage, hareas, hu ▸ hsched, hlink, hline, hwindow⟩
  · rw [hroute, hkind]
    refine ⟨fun r hr => by rw [hr]; rfl, fun hr => ?_⟩
    rw [show routeTo .probe k o s = takeProbe k o s from rfl, takeProbe_noReply hr]
  · intro x m error
    have hslot : routeOutcome t o s = close (takeSlotOutcome n o (countOutcome k o s)) := by
      rw [hroute, routeTo_slot k o hkind hn]
    refine ⟨hslot, countOutcome_unchanged, fun hs r hr => hr ▸ countOutcome_reply r hs,
      fun hs ho hlt => (countOutcome_error ho hs).trans (countFailure_below hlt), fun hs ho hle hh _ hq => ?_⟩
    have hlost : countOutcome k o s = enterLost k .failures s :=
      (countOutcome_error ho hs).trans (countFailure_limit hle)
    rw [hslot, hlost, takeSlotOutcome_lost .failures o hh hq]
    intro u
    have hother : ∀ j, j ≠ n → u.slotAt j = (enterLost k .failures s).slotAt j :=
      State.setSlot_otherSlotsKept _ n _
    refine ⟨State.slotAt_setSlot_same _ n _, enterLost_own k _ s, fun j hj => ?_, fun j hj hw => ?_,
      fun j hj => enterLost_other _ s hj, ?_, (enterLost_frame k _ s).2.2.2.2.2.1⟩
    · by_cases hjn : j = n
      · have hown : u.slotAt n = _ := State.slotAt_setSlot_same _ n _
        rw [hjn, hown]
        exact ⟨rfl, rfl⟩
      · rw [hother j hjn, enterLost_slotAt, if_pos (Or.inr hj)]
        exact ⟨rfl, rfl⟩
    · rw [hother j hj, enterLost_slotAt, if_neg]
      rintro (he | he)
      · exact hj (Holder.slot.inj (he.symm.trans hh))
      · exact hw he
    · refine (enterLost_notices k .failures s).trans ?_
      rw [hh]
      rfl

/-! ### The CANCEL (R52, R84, R85, R86) -/

/-- A CANCEL outcome at the module table, before the cancel-deferred set. -/
def cancelSettled (k : Fin 30) (o : TxnOutcome) (s : State) : State :=
  if ((countOutcome k o s).moduleAt k).state.inService then settleCancel k o (countOutcome k o s)
  else countOutcome k o s

theorem takeCancel_eq (k : Fin 30) (o : TxnOutcome) (s : State) : takeCancel k o s =
    if o.defersCancel then deferCancel k (cancelSettled k o s) else cancelSettled k o s := rfl

theorem deferCancel_eq (k : Fin 30) (s : State) : deferCancel k s = { s with sched := { s.sched with
    cancelDeferred := if k ∈ s.sched.cancelDeferred then s.sched.cancelDeferred
      else s.sched.cancelDeferred ++ [k] } } := by
  by_cases h : k ∈ s.sched.cancelDeferred <;> simp [deferCancel, h]

theorem cancelSettled_sched (k : Fin 30) (o : TxnOutcome) (s : State) : (cancelSettled k o s).sched = s.sched := by
  unfold cancelSettled
  split <;> simp

/-- A deferring CANCEL outcome at the scheduler: the address in the cancel-deferred set, once (R52). -/
theorem takeCancel_deferred {k : Fin 30} {o : TxnOutcome} {s : State} (h : o.defersCancel = true) :
    takeCancel k o s = { cancelSettled k o s with sched := { s.sched with
      cancelDeferred := if k ∈ s.sched.cancelDeferred then s.sched.cancelDeferred
        else s.sched.cancelDeferred ++ [k] } } := by
  rw [takeCancel_eq, if_pos h, deferCancel_eq, cancelSettled_sched]

theorem holdCancel_eq (k : Fin 30) (s : State) : holdCancel k s =
    let held := s.setModule k { s.moduleAt k with cancelHold := min 255 ((s.moduleAt k).cancelHold + 1) }
    if s.holdLimitReached (min 255 ((s.moduleAt k).cancelHold + 1)) then enterLost k .cancelFailed held else held := rfl

theorem holdCancel_other {j k : Fin 30} (s : State) (h : j ≠ k) : (holdCancel k s).moduleAt j = s.moduleAt j := by
  rw [holdCancel_eq]
  dsimp only
  split
  · rw [enterLost_other _ _ h, State.moduleAt_setModule_other s _ h]
  · exact State.moduleAt_setModule_other s _ h

/-- An error leaves the cancel pending (R85). -/
theorem settleCancel_error {k : Fin 30} {o : TxnOutcome} (s : State) (ho : o.isError) : settleCancel k o s = s := by
  unfold settleCancel
  rcases ho with rfl | rfl | rfl <;> split <;> rfl

/-- A CANCEL in error is counted and nothing else. -/
theorem cancelSettled_error {k : Fin 30} {o : TxnOutcome} {s : State} (ho : o.isError)
    (hs : (s.moduleAt k).state.inService = true) : cancelSettled k o s = countFailure k s := by
  rw [cancelSettled, settleCancel_error _ ho, ite_self, countOutcome_error ho hs]

/-- A reply to a CANCEL settles the holder of a module with no failure (R67, R85). -/
theorem cancelSettled_reply {k : Fin 30} {s : State} (r : Reply) (hs : (s.moduleAt k).state.inService = true) :
    cancelSettled k (.reply (some r)) s = settleCancel k (.reply (some r))
      (s.setModule k { s.moduleAt k with failCount := 0, state := .present }) := by
  rw [cancelSettled, countOutcome_reply _ hs, if_pos (by rw [State.moduleAt_setModule_same]; rfl)]

/-- ACCEPT and REFUSE free the module, HOLD counts (R85, R86). -/
theorem settleCancel_reply {k : Fin 30} {tag : Half} {r : Reply} {s : State}
    (hh : (s.moduleAt k).holder = .cancelPending tag) :
    (r.kind = .accept ∨ r.kind = .refuse → settleCancel k (.reply (some r)) s = endCancel k s) ∧
    (r.kind = .hold → settleCancel k (.reply (some r)) s = holdCancel k s) := by
  refine ⟨?_, fun hr => ?_⟩
  · rintro (hr | hr) <;> simp only [settleCancel, hh, hr]
  · simp only [settleCancel, hh, hr]

theorem State.setModule_moduleAt (s : State) (k : Fin 30) : s.setModule k (s.moduleAt k) = s := by
  simp [State.setModule, State.moduleAt]

/-- A deferring CANCEL outcome that loses the module: its record, its waiting slots and the notices (R69, R86, R124). -/
theorem takeCancel_loss {k : Fin 30} {tag : Half} {o : TxnOutcome} {s : State} {v : ModuleRecord} {cause : ModuleCause}
    (ho : o.defersCancel = true) (hv : v.holder = .cancelPending tag)
    (hu : cancelSettled k o s = enterLost k cause (s.setModule k v)) :
    (takeCancel k o s).moduleAt k = v.lostBy s.link.threshold.toNat ∧
    (∀ j, (takeCancel k o s).slotAt j =
      if j ∈ v.waiting then (s.slotAt j).atEnd .failed .moduleLost else s.slotAt j) ∧
    (takeCancel k o s).notices = s.notices.offerAll s.sched.cycleCounter
      (.moduleState k v.state .lost cause :: s.lostSlotNotices v.waiting) := by
  have hm := State.moduleAt_setModule_same s k v
  have hown := enterLost_own k cause (s.setModule k v)
  obtain ⟨hslots, hnotices⟩ := enterLost_cancelPending cause (hm.symm ▸ hv)
  rw [hm] at hown hslots hnotices
  rw [takeCancel_deferred ho, hu]
  exact ⟨hown, hslots, hnotices⟩

/-- A CANCEL answered with HOLD counts on a module with no failure (R67, R85). -/
theorem cancelSettled_hold {k : Fin 30} {tag : Half} {r : Reply} {s : State}
    (hs : (s.moduleAt k).state.inService = true) (hh : (s.moduleAt k).holder = .cancelPending tag)
    (hr : r.kind = .hold) :
    cancelSettled k (.reply (some r)) s =
      holdCancel k (s.setModule k { s.moduleAt k with failCount := 0, state := .present }) := by
  rw [cancelSettled_reply r hs]
  exact (settleCancel_reply (by rw [State.moduleAt_setModule_same]; exact hh)).2 hr

/-- HOLD below the hold limit, and at it, as one replacement of the record (R85, R86). -/
theorem holdCancel_setModule (k : Fin 30) (m : ModuleRecord) (s : State) :
    holdCancel k (s.setModule k m) =
      if s.holdLimitReached (min 255 (m.cancelHold + 1)) then
        enterLost k .cancelFailed (s.setModule k { m with cancelHold := min 255 (m.cancelHold + 1) })
      else s.setModule k { m with cancelHold := min 255 (m.cancelHold + 1) } := by
  rw [holdCancel_eq, State.moduleAt_setModule_same]
  simp only [State.setModule_setModule]
  rfl

/-- Settles O33: the replies by the holder they settle, the errors by the counting; the losses by one lemma. -/
theorem cancelOutcomeSettlesTheHolder : Obligations.CancelOutcomeSettlesTheHolder := by
  unfold Obligations.CancelOutcomeSettlesTheHolder
  intro k tag p b s hs hh m deferred frame lost
  have framed : ∀ o : TxnOutcome, o.defersCancel = true → otherModulesKept k s (cancelSettled k o s) →
      frame (takeCancel k o s) := by
    intro o ho hother
    obtain ⟨hwindow, hline, hlink, himage, hareas, -⟩ := takeCancel_frame k o s
    refine ⟨?_, ?_, himage, hareas, hlink, hline, hwindow⟩ <;> rw [takeCancel_deferred ho]
    exact hother
  refine ⟨fun kind hkind => ?_, ?_, ?_, fun o ho => ?_⟩
  · rw [takeCancel_eq, if_neg (by rcases hkind with rfl | rfl <;> exact Bool.false_ne_true), cancelSettled_reply _ hs,
      (settleCancel_reply (by rw [State.moduleAt_setModule_same]; exact hh)).1 hkind, endCancel, State.updModule,
      State.moduleAt_setModule_same, State.setModule_setModule]
  · intro t count
    have hsettled := cancelSettled_hold (r := { kind := .hold, payload := p, seqBit := b }) hs hh rfl
    refine ⟨framed _ rfl fun j hj => ?_, fun hlim => ?_, fun h0 hle => ?_⟩
    · rw [hsettled, holdCancel_other _ hj, State.moduleAt_setModule_other s _ hj]
    · rw [holdCancel_setModule, if_neg (by rw [(holdLimitReached_eq_false_iff s _).mpr hlim]; simp)] at hsettled
      have ht : t = _ := takeCancel_deferred rfl
      rw [ht, hsettled]
      exact ⟨State.moduleAt_setModule_same s k _, rfl, rfl⟩
    · have hreached : s.holdLimitReached count = true := by simp [State.holdLimitReached, h0, hle]
      rw [holdCancel_setModule, if_pos hreached] at hsettled
      exact takeCancel_loss rfl (by exact hh) hsettled
  · rw [takeCancel_eq, if_neg (by exact Bool.false_ne_true), cancelSettled,
      countOutcome_unchanged (Or.inr (Or.inl rfl)), if_pos hs]
    simp only [settleCancel, hh]
  · have hdefers : o.defersCancel = true := by rcases ho with rfl | rfl | rfl <;> rfl
    have hsettled := cancelSettled_error ho hs
    intro t
    refine ⟨framed o hdefers fun j hj => by rw [hsettled, countFailure_other s hj], fun hlt => ?_, fun hle => ?_⟩
    · have ht : t = _ := takeCancel_deferred hdefers
      rw [ht, hsettled, countFailure_below hlt]
      exact ⟨State.moduleAt_setModule_same s k _, rfl, rfl⟩
    · refine takeCancel_loss hdefers hh (hsettled.trans ((countFailure_limit hle).trans ?_))
      rw [State.setModule_moduleAt]

end Sys2Proof.Machine
end

section
/-! SUPPORT. A step with and without a command waiting, and scheduler, image unit and notice unit at the two resets; and
the statements on them. -/

namespace Sys2Proof.Machine

/-! ### A step -/

theorem CycleStage.decides_iff (c : CycleStage) : c.decides = true ↔ c = .scan ∨ c = .acyclic ∨ c = .probe := by
  cases c <;> simp [CycleStage.decides]

theorem State.decisionDue_iff (s : State) : s.decisionDue = true ↔
    s.link.state = .running ∧ s.line.txn = none ∧
      (s.sched.stage = .scan ∨ s.sched.stage = .acyclic ∨ s.sched.stage = .probe) := by
  simp only [State.decisionDue, Bool.and_eq_true, beq_iff_eq, Option.isNone_iff_eq_none, CycleStage.decides_iff,
    and_assoc]

theorem step_command {c : Instr} {rest : List Instr} {s : State} (h : s.pending = c :: rest) :
    step s = exec c { s with pending := rest } := by
  rw [step, h]

theorem step_idle {s : State} (h : s.pending = []) : step s = whenIdle s := by
  rw [step, h]

/-- Settles O1: the front command by the queue, then the empty queue by whether a decision is due. -/
theorem stepTakesFrontCommand : Obligations.StepTakesFrontCommand := by
  unfold Obligations.StepTakesFrontCommand
  refine ⟨fun c rest s h => step_command h, fun s h => ?_⟩
  rw [step_idle h, whenIdle]
  refine ⟨fun hnot => if_neg fun hd => hnot ((State.decisionDue_iff s).mp hd), fun hdue hr ha => ?_⟩
  rw [if_pos ((State.decisionDue_iff s).mpr hdue), whenAddressed_eq _ hr ha]

/-! ### The resets (R64, R108, R179) -/

/-- The held input ages of the reset image unit (R108). -/
theorem ImageUnit.reset_heldAges (k : Fin 30) : ImageUnit.reset.heldAges[k] = 0 := by
  revert k
  decide

/-- Settles O3: both resets written out, block by block. -/
theorem cycleImageAndNoticeResets : Obligations.CycleImageAndNoticeResets := by
  unfold Obligations.CycleImageAndNoticeResets
  refine ⟨fun s => ?_, fun s => ?_, fun s => ?_⟩ <;> refine ⟨_, _, execPowerOnReset_eq s, rfl, ?_⟩
  · refine ⟨rfl, rfl, rfl, rfl, rfl, rfl, rfl, rfl, fun t ht => ?_⟩
    rcases ht with rfl | rfl <;> exact ⟨rfl, rfl, rfl, rfl, rfl, rfl, rfl, rfl, rfl, rfl, rfl, rfl⟩
  · refine ⟨rfl, rfl, rfl, rfl, fun t ht => ?_⟩
    rcases ht with rfl | rfl <;>
      exact ⟨fun _ => ⟨rfl, rfl, rfl, rfl⟩, ImageUnit.reset_heldAges, rfl, rfl, rfl, rfl, rfl, rfl, rfl, rfl, rfl,
        rfl⟩
  · rintro t (rfl | rfl) <;> rfl

end Sys2Proof.Machine
end

section
/-! SUPPORT. The law of a module record, kept by every change of one and by the commands of the module table. -/

namespace Sys2Proof.Machine

/-! ### Module states (Table 4-2) -/

theorem ModuleState.takesSlots_of_inService {st : ModuleState} (h : st.inService = true) : st.takesSlots = true := by
  cases st <;> simp [ModuleState.inService, ModuleState.takesSlots] at h ⊢

theorem ModuleState.ages_of_inService {st : ModuleState} (h : st.inService = true) : st.ages = true := by
  cases st <;> simp [ModuleState.inService, ModuleState.ages] at h ⊢

theorem ModuleState.ne_mismatch_of_inService {st : ModuleState} (h : st.inService = true) : st ≠ .mismatch := by
  rintro rfl
  cases h

theorem ModuleState.linkDown_ne_mismatch (st : ModuleState) : st.linkDown ≠ .mismatch := by
  cases st <;> simp [ModuleState.linkDown]

/-- EXPECT finds no module in service (R77). -/
theorem ModuleState.inService_of_expectable {st : ModuleState} (h : st.expectable = true) : st.inService = false := by
  cases st <;> simp [ModuleState.expectable, ModuleState.inService] at h ⊢

/-- ADOPT finds no module in service (R78). -/
theorem ModuleState.inService_of_adoptable {st : ModuleState} (h : st.adoptable = true) : st.inService = false := by
  cases st <;> simp [ModuleState.adoptable, ModuleState.inService] at h ⊢

theorem ModuleRecord.unused_iff (m : ModuleRecord) : m.unused = true ↔ m.holder = .none ∧ m.waiting = [] := by
  simp [ModuleRecord.unused]

/-! ### What the law gives of a record -/

section
variable {m : ModuleRecord}

/-- The cancel hold count stands at 0 while no cancel is pending (R85). -/
theorem ModuleRecord.lawful.cancelHold_zero (h : m.lawful) (hc : m.holder.code ≠ 2#8) : m.cancelHold = 0 := by
  obtain ⟨-, -, hcancel, -⟩ := h
  by_contra hn
  exact hc (hcancel hn)

/-- Out of service a module has no holder, and so no cancel counted (R82, R85). -/
theorem ModuleRecord.lawful.unheld (h : m.lawful) (hs : m.state.inService = false) :
    m.holder = .none ∧ m.cancelHold = 0 := by
  have hnone : m.holder = .none := by
    obtain ⟨hholder, -⟩ := h
    by_contra hn
    rw [hholder hn] at hs
    cases hs
  exact ⟨hnone, h.cancelHold_zero (by rw [hnone]; decide)⟩

/-- Where no slot is taken none waits (R83). -/
theorem ModuleRecord.lawful.waiting_nil (h : m.lawful) (hs : m.state.takesSlots = false) : m.waiting = [] := by
  obtain ⟨-, hwaiting, -⟩ := h
  by_contra hn
  rw [hwaiting hn] at hs
  cases hs

theorem ModuleRecord.lawful.mismatch_none (h : m.lawful) (hs : m.state ≠ .mismatch) : m.mismatch = .none := by
  obtain ⟨-, -, -, hmismatch, -⟩ := h
  by_contra hn
  exact hs (hmismatch.mp hn)

/-- A record that no slot holds, with no cancel counted, age 255 and not refreshed (R82, R85, R88). -/
theorem ModuleRecord.lawful_unheld (hh : m.holder = .none ∧ m.cancelHold = 0)
    (hw : m.waiting ≠ [] → m.state.takesSlots = true) (hm : m.mismatch ≠ .none ↔ m.state = .mismatch)
    (ha : m.age = 255) (hr : m.refreshed = false) : m.lawful :=
  ⟨fun h => absurd hh.1 h, hw, fun h => absurd hh.2 h, hm, ha.le, fun _ => ha, fun h => by rw [hr] at h; cases h⟩

/-- A record out of MISMATCH with no mismatch cause (R74). -/
theorem ModuleRecord.mismatch_agrees (hm : m.mismatch = .none) (hs : m.state ≠ .mismatch) :
    m.mismatch ≠ .none ↔ m.state = .mismatch := iff_of_false (not_not_intro hm) hs

/-- A module in service changes among the states in service. -/
theorem ModuleRecord.lawful.serving (h : m.lawful) (hs : m.state.inService = true) {st : ModuleState}
    (hst : st.inService = true) (c : Nat) : ModuleRecord.lawful { m with failCount := c, state := st } := by
  have hm := h.mismatch_none (ModuleState.ne_mismatch_of_inService hs)
  have hages := ModuleState.ages_of_inService hst
  obtain ⟨-, -, hcancel, -, hage, -, -⟩ := h
  exact ⟨fun _ => hst, fun _ => ModuleState.takesSlots_of_inService hst, hcancel,
    ModuleRecord.mismatch_agrees (m := { m with failCount := c, state := st }) hm
      (ModuleState.ne_mismatch_of_inService hst),
    hage, fun hn => absurd (hages.symm.trans hn) (by simp), fun _ => hages⟩

/-- The waiting list changes where slots are taken, or is emptied. -/
theorem ModuleRecord.lawful.setWaiting (h : m.lawful) {l : List (Fin 8)}
    (hl : l ≠ [] → m.state.takesSlots = true) : ModuleRecord.lawful { m with waiting := l } := by
  obtain ⟨hholder, -, hrest⟩ := h
  exact ⟨hholder, hl, hrest⟩

/-- A sublist waits where the list waited (R83). -/
theorem ModuleRecord.lawful.setWaiting_of_sublist (h : m.lawful) {l : List (Fin 8)} (hl : l.Sublist m.waiting) :
    ModuleRecord.lawful { m with waiting := l } := by
  refine h.setWaiting fun hn => ?_
  obtain ⟨-, hwaiting, -⟩ := h
  exact hwaiting fun he => hn (List.sublist_nil.mp (he ▸ hl))

/-- The holder changes in service, the cancel hold count with it (R82, R85). -/
theorem ModuleRecord.lawful.setHolder (h : m.lawful) {x : Holder} {c : Nat}
    (hx : x ≠ .none → m.state.inService = true) (hc : c ≠ 0 → x.code = 2#8) :
    ModuleRecord.lawful { m with holder := x, cancelHold := c } := by
  obtain ⟨-, hwaiting, -, hrest⟩ := h
  exact ⟨hx, hwaiting, hc, hrest⟩

end

/-! ### Every change of a record -/

theorem ModuleRecord.aged_lawful {m : ModuleRecord} (h : m.lawful) : m.aged.lawful := by
  obtain ⟨hholder, hwaiting, hcancel, hmismatch, hage, hquiet, -⟩ := h
  refine ⟨hholder, hwaiting, hcancel, hmismatch, ?_, fun ha => ?_, fun hr => by cases hr⟩
  · simp only [ModuleRecord.aged]
    split
    · exact min_le_left _ _
    · exact hage
  · have ha' : m.state.ages = false := ha
    simp only [ModuleRecord.aged, ha', Bool.false_and, Bool.false_eq_true, if_false]
    exact hquiet ha'

theorem ModuleRecord.linkDown_lawful (m : ModuleRecord) : m.linkDown.lawful :=
  ModuleRecord.lawful_unheld ⟨rfl, rfl⟩ (absurd rfl) (ModuleRecord.mismatch_agrees rfl m.state.linkDown_ne_mismatch)
    rfl rfl

/-- A slot gives its hold up, to no one or to the cancel it owes (R82). -/
theorem ModuleRecord.release_lawful {m : ModuleRecord} (n : Fin 8) (h : m.lawful) : (m.release n).lawful := by
  unfold ModuleRecord.release
  split
  · next hn =>
    exact h.setHolder (absurd rfl) fun hc => absurd (h.cancelHold_zero (by rw [hn]; simp [Holder.code])) hc
  · exact h

theorem ModuleRecord.releaseForCancel_lawful {m : ModuleRecord} (n : Fin 8) (tag : Half) (h : m.lawful) :
    (m.releaseForCancel n tag).lawful := by
  unfold ModuleRecord.releaseForCancel
  split
  · next hn => exact h.setHolder (fun _ => h.1 (by rw [hn]; simp)) (absurd rfl)
  · exact h

/-- The head of the list becomes the holder of a module in service that no slot holds (R82). -/
theorem ModuleRecord.claim_lawful {m : ModuleRecord} (n : Fin 8) (h : m.lawful) (hs : m.state.inService = true)
    (hh : m.holder = .none) : (m.claim n).lawful :=
  ModuleRecord.lawful.setHolder (m := { m with waiting := m.waiting.tail }) (c := m.cancelHold)
    (h.setWaiting_of_sublist (List.tail_sublist _)) (fun _ => hs)
    (fun hc => absurd (h.cancelHold_zero (by rw [hh]; simp [Holder.code])) hc)

/-- A module judged by its IDENT has no holder, and its waiting slots stand or are ended (R73, R74). -/
theorem ModuleRecord.lawful.unheld_probed {m : ModuleRecord} (h : m.lawful)
    (hs : m.state = .expected ∨ m.state = .lost) : m.holder = .none ∧ m.cancelHold = 0 :=
  h.unheld (by rcases hs with hs | hs <;> rw [hs] <;> rfl)

/-- Every change of a record keeps its law, for every threshold. -/
theorem moduleLawful_kept (threshold : Nat) : KeptByRecords threshold ModuleRecord.lawful where
  counted _ h hs := h.serving hs rfl _
  suspect _ h hs _ := h.serving hs rfl _
  lost m h hs := by
    have hm := h.mismatch_none (ModuleState.ne_mismatch_of_inService hs)
    obtain ⟨-, -, -, -, hage, -, -⟩ := h
    exact ⟨absurd rfl, absurd rfl, absurd rfl, iff_of_false (not_not_intro hm) (by simp), hage,
      fun hn => (by cases hn), fun _ => rfl⟩
  scanned b m h hs := by
    obtain ⟨hholder, hwaiting, hcancel, hmismatch, -, -, -⟩ := h.serving hs (st := .present) rfl 0
    exact ⟨hholder, hwaiting, hcancel, hmismatch, Nat.zero_le _, fun hn => (by cases hn), fun _ => rfl⟩
  identified i m h hs _ := ModuleRecord.lawful_unheld (h.unheld_probed hs) (fun _ => rfl)
    (ModuleRecord.mismatch_agrees rfl (by simp [ModuleRecord.enterPresent])) rfl rfl
  mismatched i c m h hs hc := ModuleRecord.lawful_unheld (h.unheld_probed hs) (absurd rfl) (iff_of_true hc rfl) rfl rfl
  found i m h hs :=
    ModuleRecord.lawful_unheld (h.unheld (by rw [hs]; rfl)) (absurd (h.waiting_nil (by rw [hs]; rfl)))
      (iff_of_false (not_not_intro (h.mismatch_none (by rw [hs]; simp))) (by simp)) rfl rfl
  freed _ h := h.setHolder (absurd rfl) (absurd rfl)
  cancelHeld _ m h hc := h.setHolder (x := m.holder) (fun hn => h.1 hn) (fun _ => hc)
  aged _ h := ModuleRecord.aged_lawful h
  linkDown m _ := m.linkDown_lawful
  append _ _ h ht := h.setWaiting fun _ => ht
  remove _ _ h := h.setWaiting_of_sublist List.filter_sublist
  claim n _ h hs hh := ModuleRecord.claim_lawful n h hs hh
  release n _ h := ModuleRecord.release_lawful n h
  releaseForCancel n tag _ h := ModuleRecord.releaseForCancel_lawful n tag h

/-! ### The commands of the module table -/

theorem ModuleRecord.putField_lawful (v : Byte) (r : Reg) {m : ModuleRecord} (h : m.lawful) :
    (m.putField v r).lawful := by
  unfold ModuleRecord.putField
  split <;> exact h

/-- FORGET and DISABLE leave a module that nothing holds and nothing waits for (R79, R80). -/
theorem ModuleRecord.setAside_lawful {st : ModuleState} {m : ModuleRecord} (hst : st ≠ .mismatch)
    (hu : m.unused = true) : (m.setAside st).lawful := by
  obtain ⟨hholder, hwaiting⟩ := m.unused_iff.mp hu
  exact ModuleRecord.lawful_unheld ⟨hholder, rfl⟩ (absurd hwaiting) (ModuleRecord.mismatch_agrees rfl hst) rfl rfl

theorem moduleLawful_keptByCommands : KeptByModuleCommands ModuleRecord.lawful where
  reset := ModuleRecord.reset_lawful
  platform m _ := m.linkDown_lawful
  field v r _ h _ := ModuleRecord.putField_lawful v r h
  expect m h hs _ := ModuleRecord.lawful_unheld (h.unheld (ModuleState.inService_of_expectable hs)) (fun _ => rfl)
    (ModuleRecord.mismatch_agrees rfl (by simp [ModuleRecord.enterExpected])) rfl rfl
  adopt m h hs _ _ := ModuleRecord.lawful_unheld (h.unheld (ModuleState.inService_of_adoptable hs)) (fun _ => rfl)
    (ModuleRecord.mismatch_agrees rfl (by simp [ModuleRecord.enterPresent])) rfl rfl
  forget _ _ _ hu := ModuleRecord.setAside_lawful (by simp) hu
  disable _ _ _ hu := ModuleRecord.setAside_lawful (st := .disabled) (by simp) hu
  enable m h hs :=
    ModuleRecord.lawful_unheld (h.unheld (by rw [hs]; rfl)) (absurd (h.waiting_nil (by rw [hs]; rfl)))
      (iff_of_false (not_not_intro (h.mismatch_none (by rw [hs]; simp))) (by dsimp only; split <;> simp)) rfl rfl

/-- Settles O58: the law of a record is kept by every change of one and by every module command. -/
theorem moduleRecordLawsKept : Obligations.ModuleRecordLawsKept := by
  unfold Obligations.ModuleRecordLawsKept
  intro s t hmodules hstep
  exact step_keeps (P := State.modulesLawful) (modules_keep moduleLawful_kept moduleLawful_keptByCommands) hmodules
    hstep

end Sys2Proof.Machine
end

section
/-! SUPPORT. The judgement of an IDENT: the first check that fails, and what each module state makes of it; and the
statement on it. -/

namespace Sys2Proof.Machine

/-! ### The checks in order (R72) -/

theorem ModuleRecord.identify_eq (m : ModuleRecord) : m.identify =
    if m.formatOk = true then
      if m.typeOk = true then if m.lengthOk = true then .none else .length else .type
    else .format := by
  unfold ModuleRecord.identify
  cases m.formatOk <;> cases m.typeOk <;> cases m.lengthOk <;> rfl

theorem ModuleRecord.identify_eq_none_iff (m : ModuleRecord) :
    m.identify = .none ↔ m.formatOk = true ∧ m.typeOk = true ∧ m.lengthOk = true := by
  rw [ModuleRecord.identify_eq]
  split
  · split
    · split <;> simp [*]
    · simp [*]
  · simp [*]

/-- Where a check fails, the cause in the record and in the notice is that of the first (R72, R74). -/
theorem ModuleRecord.identify_failed {m : ModuleRecord} {format type : Prop} [Decidable format] [Decidable type]
    (hf : m.formatOk = true ↔ format) (ht : m.typeOk = true ↔ type) (hn : m.identify ≠ .none) :
    m.identify = (if ¬ format then .format else if ¬ type then .type else .length) ∧
    m.identify.notice =
      (if ¬ format then .mismatchFormat else if ¬ type then .mismatchType else .mismatchLength) := by
  rw [Ne, ModuleRecord.identify_eq_none_iff] at hn
  rw [ModuleRecord.identify_eq]
  by_cases h1 : format
  · by_cases h2 : type
    · have hl : m.lengthOk = false := by
        rw [Bool.eq_false_iff]
        exact fun hl => hn ⟨hf.mpr h1, ht.mpr h2, hl⟩
      simp [hf, ht, h1, h2, hl, MismatchCause.notice]
    · simp [hf, ht, h1, h2, MismatchCause.notice]
  · simp [hf, h1, MismatchCause.notice]

/-! ### An IDENT by the module's state (R71) -/

/-- The record with its reported fields written (R65, R71). -/
def State.reportedAt (k : Fin 30) (i : Ident) (s : State) : State := s.setModule k ((s.moduleAt k).reported i)

@[simp] theorem State.reportedAt_moduleAt (k : Fin 30) (i : Ident) (s : State) :
    (s.reportedAt k i).moduleAt k = (s.moduleAt k).reported i := State.moduleAt_setModule_same s k _

/-- EXPECTED and LOST are judged on the fields just written (R72). -/
theorem takeIdent_judged {k : Fin 30} {s : State} (i : Ident)
    (h : (s.moduleAt k).state = .expected ∨ (s.moduleAt k).state = .lost) :
    takeIdent k i s = judgeIdent k (s.reportedAt k i) := by
  unfold takeIdent
  rcases h with h | h <;> rw [h] <;> rfl

/-- All checks met: PRESENT, with the notice by the state before (R73). -/
theorem judgeIdent_identified {k : Fin 30} {s : State} (h : (s.moduleAt k).identify = .none) :
    judgeIdent k s = (s.setModule k (s.moduleAt k).enterPresent).offer
      (.moduleState k (s.moduleAt k).state .present
        (if (s.moduleAt k).state = .lost then .returned else .identified)) := by
  simp only [judgeIdent, h]

/-- A check failed: MISMATCH with its cause (R74). -/
theorem judgeIdent_mismatched {k : Fin 30} {s : State} (h : (s.moduleAt k).identify ≠ .none) :
    judgeIdent k s = enterMismatch k (s.moduleAt k).identify s := by
  unfold judgeIdent
  dsimp only
  split
  · next hc => exact absurd hc h
  all_goals next hc => rw [hc]

theorem takeIdent_vacant {k : Fin 30} {s : State} (i : Ident) (h : (s.moduleAt k).state = .vacant) :
    takeIdent k i s = if s.sched.searchVacant = true then enterFound k i s else s := by
  simp only [takeIdent, h]

/-- In every other state an IDENT changes nothing (R71). -/
theorem takeIdent_unchanged {k : Fin 30} {s : State} (i : Ident)
    (h : (s.moduleAt k).state = .present ∨ (s.moduleAt k).state = .suspect ∨ (s.moduleAt k).state = .found ∨
      (s.moduleAt k).state = .mismatch ∨ (s.moduleAt k).state = .disabled) : takeIdent k i s = s := by
  unfold takeIdent
  rcases h with h | h | h | h | h <;> rw [h]

/-- What an IDENT can do: nothing, PRESENT or FOUND with a record whose holder and waiting list stay, or MISMATCH. -/
theorem takeIdent_cases (k : Fin 30) (i : Ident) (s : State) :
    takeIdent k i s = s ∨
    (∃ m b, m.holder = (s.moduleAt k).holder ∧ m.waiting = (s.moduleAt k).waiting ∧
      takeIdent k i s = (s.setModule k m).offer b) ∨
    ∃ c, takeIdent k i s = enterMismatch k c (s.reportedAt k i) := by
  have hjudged : (s.moduleAt k).state = .expected ∨ (s.moduleAt k).state = .lost →
      (∃ m b, m.holder = (s.moduleAt k).holder ∧ m.waiting = (s.moduleAt k).waiting ∧
        takeIdent k i s = (s.setModule k m).offer b) ∨
      ∃ c, takeIdent k i s = enterMismatch k c (s.reportedAt k i) := by
    intro h
    rw [takeIdent_judged i h]
    by_cases hc : ((s.reportedAt k i).moduleAt k).identify = .none
    · rw [judgeIdent_identified hc, State.reportedAt_moduleAt, State.reportedAt, State.setModule_setModule]
      exact Or.inl ⟨((s.moduleAt k).reported i).enterPresent, _, rfl, rfl, rfl⟩
    · exact Or.inr ⟨_, judgeIdent_mismatched hc⟩
  cases hm : (s.moduleAt k).state with
  | expected => exact Or.inr (hjudged (Or.inl hm))
  | lost => exact Or.inr (hjudged (Or.inr hm))
  | vacant =>
    rw [takeIdent_vacant i hm]
    split
    · exact Or.inr (Or.inl ⟨{ (s.moduleAt k).reported i with
        state := .found, failCount := 0, age := 255, refreshed := false }, _, rfl, rfl, rfl⟩)
    · exact Or.inl rfl
  | present | suspect | found | mismatch | disabled => exact Or.inl (takeIdent_unchanged i (by simp [hm]))

theorem takeIdent_other {k : Fin 30} (i : Ident) (s : State) : otherModulesKept k s (takeIdent k i s) := by
  intro j hj
  rcases takeIdent_cases k i s with h | ⟨m, b, -, -, h⟩ | ⟨c, h⟩ <;> rw [h]
  · rw [State.offer_moduleAt, State.moduleAt_setModule_other s m hj]
  · rw [enterMismatch_moduleAt, if_neg hj, State.reportedAt, State.moduleAt_setModule_other s _ hj]

/-- Settles O30: EXPECTED and LOST by the checks in order, then VACANT and the states that an IDENT leaves. -/
theorem identificationJudgesIdent : Obligations.IdentificationJudgesIdent := by
  unfold Obligations.IdentificationJudgesIdent
  intro k i s m t written format type length
  have hformat : written.formatOk = true ↔ format := written.formatOk_iff
  have htype : written.typeOk = true ↔ type := written.typeOk_iff
  have hlength : written.lengthOk = true ↔ length := by
    rw [ModuleRecord.lengthOk_iff, ModuleRecord.regionsInside_iff]
  have hwritten : (s.reportedAt k i).moduleAt k = written := State.reportedAt_moduleAt k i s
  have hidentify : written.identify = .none ↔ format ∧ type ∧ length := by
    rw [ModuleRecord.identify_eq_none_iff, hformat, htype, hlength]
  obtain ⟨hwindow, hline, hlink, hsched, himage, hareas, -⟩ := takeIdent_frame k i s
  refine ⟨fun hm => ⟨fun h1 h2 h3 => ?_, fun hn => ?_⟩, fun hm hv => ?_, fun hm hv => ?_, takeIdent_unchanged i,
    takeIdent_other i s, hline, hlink, hsched, himage, hareas, hwindow⟩
  · have ht : t = _ := (takeIdent_judged i hm).trans
      (judgeIdent_identified (by rw [hwritten]; exact hidentify.mpr ⟨h1, h2, h3⟩))
    rw [ht, hwritten, State.reportedAt, State.setModule_setModule]
    rfl
  · have hc : written.identify ≠ .none := fun h => hn (hidentify.mp h)
    have ht : t = _ := (takeIdent_judged i hm).trans (judgeIdent_mismatched (by rw [hwritten]; exact hc))
    obtain ⟨hcause, hnotice⟩ := ModuleRecord.identify_failed hformat htype hc
    rw [ht, ← hcause, ← hnotice, hwritten]
    refine ⟨?_, fun n => ?_, ?_⟩
    · rw [enterMismatch_moduleAt, if_pos rfl, hwritten]
    · rw [enterMismatch_slotAt, hwritten]
      rfl
    · rw [enterMismatch_notices, hwritten]
      rfl
  · exact (takeIdent_vacant i hm).trans (if_pos hv)
  · exact (takeIdent_vacant i hm).trans (if_neg (by simp [hv]))

end Sys2Proof.Machine
end

section
/-! SUPPORT. The agreement of slots, module table and areas, slot by slot; a slot's own law by its state; and what a
change must leave for the agreement to stand. -/

namespace Sys2Proof.Machine

/-! ### The agreement, slot by slot -/

/-- Slot `n` agrees with the module table (R82, R83) and with the areas (R136), and is lawful itself. -/
def State.slotAgrees (s : State) (n : Fin 8) : Prop :=
  (∀ k, (s.moduleAt k).holder = .slot n ↔ (s.slotAt n).holds = true ∧ (s.slotAt n).module = some k) ∧
  (∀ k, n ∈ (s.moduleAt k).waiting ↔ (s.slotAt n).state = .queued ∧ (s.slotAt n).module = some k) ∧
  (∀ a d, (s.areaAt a).binding = some { slot := n, direction := d } ↔
    (s.slotAt n).state ≠ .free ∧ (s.slotAt n).host.area = a ∧ (s.slotAt n).host.direction = some d) ∧
  (s.slotAt n).lawful

/-- Module `k` names slot `j`: as its holder or in its waiting list. -/
def State.names (s : State) (k : Fin 30) (j : Fin 8) : Prop :=
  (s.moduleAt k).holder = .slot j ∨ j ∈ (s.moduleAt k).waiting

/-- Slots, module table and areas agree, whatever is in flight: each slot with the tables, no number twice in a waiting
list (R83), and fill at most size (R139). -/
def State.exchangesStand (s : State) : Prop :=
  (∀ n, s.slotAgrees n) ∧ (∀ k, (s.moduleAt k).waiting.Nodup) ∧ s.fillsInside

section
variable {s : State}

/-- A module's holder is the slot that holds it (R82). -/
theorem State.exchangesStand.holder_iff (h : s.exchangesStand) (k : Fin 30) (n : Fin 8) :
    (s.moduleAt k).holder = .slot n ↔ (s.slotAt n).holds = true ∧ (s.slotAt n).module = some k := by
  obtain ⟨hholder, -⟩ := h.1 n
  exact hholder k

/-- A waiting list holds the slots QUEUED for its module (R83). -/
theorem State.exchangesStand.waiting_iff (h : s.exchangesStand) (k : Fin 30) (n : Fin 8) :
    n ∈ (s.moduleAt k).waiting ↔ (s.slotAt n).state = .queued ∧ (s.slotAt n).module = some k := by
  obtain ⟨-, hwaiting, -⟩ := h.1 n
  exact hwaiting k

/-- An area is bound to the slot that uses it (R136). -/
theorem State.exchangesStand.binding_iff (h : s.exchangesStand) (a : Fin 4) (n : Fin 8) (d : Direction) :
    (s.areaAt a).binding = some { slot := n, direction := d } ↔
      (s.slotAt n).state ≠ .free ∧ (s.slotAt n).host.area = a ∧ (s.slotAt n).host.direction = some d := by
  obtain ⟨-, -, hbinding, -⟩ := h.1 n
  exact hbinding a d

theorem State.exchangesStand.lawful (h : s.exchangesStand) (n : Fin 8) : (s.slotAt n).lawful := by
  obtain ⟨-, -, -, hlawful⟩ := h.1 n
  exact hlawful

theorem State.exchangesStand.nodup (h : s.exchangesStand) (k : Fin 30) : (s.moduleAt k).waiting.Nodup := by
  obtain ⟨-, hnodup, -⟩ := h
  exact hnodup k

theorem State.exchangesStand.fill_le (h : s.exchangesStand) (a : Fin 4) : (s.areaAt a).fill ≤ (s.areaAt a).size := by
  obtain ⟨-, -, hfills⟩ := h
  exact hfills a

end

/-- A slot with no request in flight and no abort pending. -/
def Slot.quiet (x : Slot) : Prop := x.inFlight = none ∧ x.state ≠ .abortPending

/-- A slot's request in flight fits it and the transaction in flight, and an abort is pending over one alone (R141,
R146, R162). -/
def State.requestAgrees (s : State) (n : Fin 8) : Prop :=
  (∀ q, (s.slotAt n).inFlight = some q →
    (s.slotAt n).takesOutcome = true ∧ q.fits (s.slotAt n) (s.areaAt (s.slotAt n).host.area) ∧
    s.sched.forSlot = some n ∧
    ∃ t, s.line.txn = some t ∧ t.kind = q.kind ∧ (s.slotAt n).module = moduleIndex t.address) ∧
  ((s.slotAt n).state = .abortPending → (s.slotAt n).inFlight ≠ none)

theorem State.exchangesLawful_iff (s : State) :
    s.exchangesLawful ↔ s.exchangesStand ∧ ∀ n, s.requestAgrees n := by
  unfold State.exchangesLawful State.exchangesStand State.slotAgrees State.requestAgrees State.holdersAgree
    State.waitingAgrees State.bindingsAgree State.requestsAgree
  constructor
  · rintro ⟨hholders, hwaiting, hbindings, hfills, hlawful, hrequests, hpending⟩
    exact ⟨⟨fun n => ⟨fun k => hholders k n, fun k => (hwaiting k).2 n, fun a d => hbindings a n d, hlawful n⟩,
      fun k => (hwaiting k).1, hfills⟩, fun n => ⟨hrequests n, hpending n⟩⟩
  · rintro ⟨⟨hslots, hnodup, hfills⟩, hrequests⟩
    have hstand : s.exchangesStand := ⟨hslots, hnodup, hfills⟩
    exact ⟨hstand.holder_iff, fun k => ⟨hnodup k, hstand.waiting_iff k⟩, hstand.binding_iff, hfills, hstand.lawful,
      fun n => (hrequests n).1, fun n => (hrequests n).2⟩

theorem State.requestAgrees_of_quiet {s : State} {n : Fin 8} (h : (s.slotAt n).quiet) : s.requestAgrees n :=
  ⟨fun q hq => (by rw [h.1] at hq; cases hq), fun hp => absurd hp h.2⟩

/-- All slots are quiet but `p`, if it names one. -/
def State.quietBut (p : Option (Fin 8)) (s : State) : Prop := ∀ j, p ≠ some j → (s.slotAt j).quiet

/-- The agreement stands, and no slot but `p` has a request in flight or an abort pending. -/
def State.settledBut (p : Option (Fin 8)) (s : State) : Prop := s.exchangesStand ∧ s.quietBut p

theorem State.settledBut.lawful {s : State} (h : s.settledBut none) : s.exchangesLawful :=
  s.exchangesLawful_iff.mpr ⟨h.1, fun n => State.requestAgrees_of_quiet (h.2 n (by simp))⟩

/-! ### A slot's own law, by its state -/

section
variable {x : Slot}

theorem Slot.takesOutcome_iff (x : Slot) : x.takesOutcome = true ↔
    x.state = .opening ∨ x.state = .transferring ∨ x.state = .closing ∨ x.state = .abortPending := by
  unfold Slot.takesOutcome
  cases x.state <;> simp [SlotState.inPhase]

/-- A slot that may take an outcome holds its module, and is out of FREE and QUEUED. -/
theorem Slot.holds_of_takesOutcome (h : x.takesOutcome = true) :
    x.holds = true ∧ x.state ≠ .queued ∧ x.state ≠ .free := by
  rcases x.takesOutcome_iff.mp h with h | h | h | h <;> simp [Slot.holds, h]

theorem Slot.ne_free_of_takesOutcome (h : x.takesOutcome = true) : x.state ≠ .free := by
  obtain ⟨-, -, hfree⟩ := Slot.holds_of_takesOutcome h
  exact hfree

theorem Slot.ne_queued_of_takesOutcome (h : x.takesOutcome = true) : x.state ≠ .queued := by
  obtain ⟨-, hqueued, -⟩ := Slot.holds_of_takesOutcome h
  exact hqueued

/-- The law of a slot that may take an outcome: a recorded phase, that of its state in a phase, and the progress of that
phase (R112, R143, R144). -/
theorem Slot.lawful_taking_iff (h : x.takesOutcome = true) : x.lawful ↔
    x.host.usable = true ∧ x.run.recordedPhase ≠ .none ∧
    (x.state.inPhase = true → x.run.recordedPhase = x.state.phase) ∧
    (x.run.recordedPhase = .opening → x.run.bytesMoved = 0) ∧
    (x.run.recordedPhase = .transferring → x.run.bytesMoved < x.host.declared.toNat) := by
  obtain ⟨hholds, hqueued, hfree⟩ := Slot.holds_of_takesOutcome h
  unfold Slot.lawful
  constructor
  · rintro ⟨husable, hphase, -, hpending, hnone, hmoved⟩
    refine ⟨husable hfree, ?_, hphase, fun hp => hnone (Or.inr hp), hmoved hholds⟩
    rcases x.takesOutcome_iff.mp h with h | h | h | h
    · rw [hphase (by rw [h]; rfl), h]; simp [SlotState.phase]
    · rw [hphase (by rw [h]; rfl), h]; simp [SlotState.phase]
    · rw [hphase (by rw [h]; rfl), h]; simp [SlotState.phase]
    · exact hpending h
  · rintro ⟨husable, hpn, hphase, hopening, hmoved⟩
    exact ⟨fun _ => husable, hphase, fun hn => (hn.elim hfree hqueued).elim, fun _ => hpn,
      fun hp => hopening (hp.resolve_left hpn), fun _ => hmoved⟩

/-- DONE and FAILED keep what the slot has moved (R122). -/
theorem Slot.lawful_ended (hs : x.state = .done ∨ x.state = .failed) (hu : x.host.usable = true)
    (hp : x.run.recordedPhase = .none ∨ x.run.recordedPhase = .opening → x.run.bytesMoved = 0) : x.lawful := by
  unfold Slot.lawful
  rcases hs with hs | hs <;> simp only [hs] <;>
    exact ⟨fun _ => hu, fun h => (by cases h), fun h => (by rcases h with h | h <;> cases h),
      fun h => (by cases h), hp, fun h => by simp [Slot.holds, hs] at h⟩

/-- ABORTED keeps the phase, to be resumed in (R112, R160, R161, R163). -/
theorem Slot.lawful_aborted (hs : x.state = .aborted) (hu : x.host.usable = true)
    (hp : x.run.recordedPhase = .none ∨ x.run.recordedPhase = .opening → x.run.bytesMoved = 0)
    (hm : x.run.recordedPhase = .transferring → x.run.bytesMoved < x.host.declared.toNat) : x.lawful := by
  unfold Slot.lawful
  simp only [hs]
  exact ⟨fun _ => hu, fun h => (by cases h), fun h => (by rcases h with h | h <;> cases h), fun h => (by cases h), hp,
    fun _ => hm⟩

/-- A slot that waits or is free has moved nothing and has no phase (R111, R112). -/
theorem Slot.lawful_waiting (hs : x.state = .free ∨ x.state = .queued)
    (hu : x.state = .queued → x.host.usable = true) (hp : x.run.recordedPhase = .none) (hb : x.run.bytesMoved = 0) :
    x.lawful := by
  unfold Slot.lawful
  rcases hs with hs | hs <;> simp only [hs] at hu ⊢
  · exact ⟨absurd rfl, fun h => (by cases h), fun _ => hp, fun h => (by cases h), fun _ => hb,
      fun h => by simp [Slot.holds, hs] at h⟩
  · exact ⟨fun _ => hu trivial, fun h => (by cases h), fun _ => hp, fun h => (by cases h), fun _ => hb,
      fun h => by simp [Slot.holds, hs] at h⟩

/-- What the law gives of a slot in any state. -/
theorem Slot.lawful.usable (h : x.lawful) (hf : x.state ≠ .free) : x.host.usable = true := h.1 hf

theorem Slot.lawful.notMoved (h : x.lawful) (hp : x.run.recordedPhase = .none ∨ x.run.recordedPhase = .opening) :
    x.run.bytesMoved = 0 := by
  obtain ⟨-, -, -, -, hnone, -⟩ := h
  exact hnone hp

end

/-! ### Changes that leave the agreement -/

/-- Slot `y` stands as `x` did, unless `e`: then it has let go of its module. Either way it is lawful, is FREE where `x`
was, and quiet where `x` was. -/
structure Slot.standsUnless (e : Prop) (x y : Slot) : Prop where
  host : y.host = x.host
  free : y.state = .free ↔ x.state = .free
  holds : y.holds = true ↔ x.holds = true ∧ ¬ e
  queued : y.state = .queued ↔ x.state = .queued ∧ ¬ e
  quiet : x.quiet → y.quiet
  lawful : y.lawful

/-- Record `m'` names as holder and in its waiting list the slots that `m` named, but those in `E`. -/
structure ModuleRecord.namesUnless (E : Fin 8 → Prop) (m m' : ModuleRecord) : Prop where
  holder : ∀ n, m'.holder = .slot n ↔ m.holder = .slot n ∧ ¬ E n
  waiting : ∀ n, n ∈ m'.waiting ↔ n ∈ m.waiting ∧ ¬ E n
  sublist : m'.waiting.Sublist m.waiting

/-- A change of slots, modules and areas under which slots in `E` let go of their modules, and all else stands. -/
structure State.standsUnless (E : Fin 8 → Prop) (s t : State) : Prop where
  modules : ∀ k, (s.moduleAt k).namesUnless E (t.moduleAt k)
  bindings : ∀ a, (t.areaAt a).binding = (s.areaAt a).binding
  fills : t.fillsInside
  slots : ∀ n, (s.slotAt n).standsUnless (E n) (t.slotAt n)

section
variable {s t : State} {E : Fin 8 → Prop} {p : Option (Fin 8)}

/-- A change that leaves the agreement. -/
theorem State.exchangesStand.change (h : s.exchangesStand) (hc : s.standsUnless E t) : t.exchangesStand := by
  refine ⟨fun n => ?_, fun k => (hc.modules k).sublist.nodup (h.nodup k), hc.fills⟩
  have hx := hc.slots n
  have hmodule : (t.slotAt n).module = (s.slotAt n).module := by rw [Slot.module, hx.host, Slot.module]
  refine ⟨fun k => ?_, fun k => ?_, fun a d => ?_, hx.lawful⟩
  · rw [(hc.modules k).holder n, h.holder_iff, hx.holds, hmodule]
    exact and_right_comm
  · rw [(hc.modules k).waiting n, h.waiting_iff, hx.queued, hmodule]
    exact and_right_comm
  · rw [hc.bindings a, h.binding_iff, hx.host, Ne, Ne, hx.free]

theorem State.quietBut.change (h : s.quietBut p) (hc : s.standsUnless E t) : t.quietBut p :=
  fun j hj => (hc.slots j).quiet (h j hj)

theorem State.settledBut.change (h : s.settledBut p) (hc : s.standsUnless E t) : t.settledBut p :=
  ⟨h.1.change hc, h.2.change hc⟩

/-- A slot that a module names names the module, and is out of FREE. -/
theorem State.exchangesStand.named (h : s.exchangesStand) {k : Fin 30} {n : Fin 8} (hn : s.names k n) :
    (s.slotAt n).module = some k ∧ (s.slotAt n).state ≠ .free := by
  rcases hn with hn | hn
  · obtain ⟨hholds, hmodule⟩ := (h.holder_iff k n).mp hn
    exact ⟨hmodule, fun hf => by simp [Slot.holds, hf] at hholds⟩
  · obtain ⟨hqueued, hmodule⟩ := (h.waiting_iff k n).mp hn
    exact ⟨hmodule, by rw [hqueued]; simp⟩

end

/-- A record as it stands names none of `E`. -/
theorem ModuleRecord.namesUnless_kept {E : Fin 8 → Prop} {m m' : ModuleRecord} (hh : m'.holder = m.holder)
    (hw : m'.waiting = m.waiting) (hn : ∀ n, E n → ¬ (m.holder = .slot n ∨ n ∈ m.waiting)) :
    m.namesUnless E m' where
  holder n := by
    rw [hh]
    exact ⟨fun h => ⟨h, fun he => hn n he (Or.inl h)⟩, And.left⟩
  waiting n := by
    rw [hw]
    exact ⟨fun h => ⟨h, fun he => hn n he (Or.inr h)⟩, And.left⟩
  sublist := by rw [hw]

/-- A record that names what it named. -/
theorem ModuleRecord.namesUnless_same {m m' : ModuleRecord} (hh : m'.holder = m.holder) (hw : m'.waiting = m.waiting) :
    m.namesUnless (fun _ => False) m' := ModuleRecord.namesUnless_kept hh hw fun _ he => he.elim

/-- A record that names no slot any more. -/
theorem ModuleRecord.namesUnless_emptied {E : Fin 8 → Prop} {m m' : ModuleRecord} (hh : ∀ n, m'.holder ≠ .slot n)
    (hw : m'.waiting = []) (hn : ∀ n, m.holder = .slot n ∨ n ∈ m.waiting → E n) : m.namesUnless E m' where
  holder n := ⟨fun h => absurd h (hh n), fun h => absurd (hn n (Or.inl h.1)) h.2⟩
  waiting n := by
    rw [hw]
    exact ⟨fun h => (by cases h), fun h => absurd (hn n (Or.inr h.1)) h.2⟩
  sublist := by rw [hw]; exact List.nil_sublist _

/-- A slot that keeps its state but not its run-time fields, as far as the law allows. -/
theorem Slot.standsUnless_kept {e : Prop} {x y : Slot} (hh : y.host = x.host) (hs : y.state = x.state)
    (hp : y.run.recordedPhase = x.run.recordedPhase) (hb : y.run.bytesMoved = x.run.bytesMoved)
    (hi : y.inFlight = x.inFlight ∨ y.inFlight = none) (he : ¬ e) (hl : x.lawful) : x.standsUnless e y where
  host := hh
  free := by rw [hs]
  holds := by simp [Slot.holds, hs, hp, he]
  queued := by simp [hs, he]
  quiet h := ⟨hi.elim (·.trans h.1) id, by rw [hs]; exact h.2⟩
  lawful := by
    unfold Slot.lawful Slot.holds at *
    rw [hh, hs, hp, hb]
    exact hl

/-- A slot that stays one that may take an outcome. -/
theorem Slot.standsUnless_taking {e : Prop} {x y : Slot} (hx : x.takesOutcome = true) (hy : y.takesOutcome = true)
    (hh : y.host = x.host) (hq : x.quiet → y.quiet) (he : ¬ e) (hl : y.lawful) : x.standsUnless e y where
  host := hh
  free := iff_of_false (Slot.ne_free_of_takesOutcome hy) (Slot.ne_free_of_takesOutcome hx)
  holds := by simp [(Slot.holds_of_takesOutcome hy).1, (Slot.holds_of_takesOutcome hx).1, he]
  queued := iff_of_false (Slot.ne_queued_of_takesOutcome hy) fun h => Slot.ne_queued_of_takesOutcome hx h.1
  quiet := hq
  lawful := hl

/-- A slot that ends DONE or FAILED lets go (R122). -/
theorem Slot.standsUnless_atEnd {e : Prop} {x : Slot} {st : SlotState} (c : Condition)
    (hst : st = .done ∨ st = .failed) (hl : x.lawful) (hf : x.state ≠ .free) (he : e) :
    x.standsUnless e (x.atEnd st c) where
  host := rfl
  free := iff_of_false (by rcases hst with rfl | rfl <;> simp [Slot.atEnd]) hf
  holds := by rcases hst with rfl | rfl <;> simp [Slot.holds, Slot.atEnd, he]
  queued := by rcases hst with rfl | rfl <;> simp [Slot.atEnd, he]
  quiet h := ⟨h.1, by rcases hst with rfl | rfl <;> simp [Slot.atEnd]⟩
  lawful := Slot.lawful_ended hst (hl.usable hf) hl.notMoved

/-! ### Changes of one block -/

section
variable {s t : State} {p : Option (Fin 8)}

/-- Module records name what they named; the slots and the areas are as before. -/
theorem State.exchangesStand.standsAs (h : s.exchangesStand)
    (hm : ∀ k, (s.moduleAt k).namesUnless (fun _ => False) (t.moduleAt k))
    (hx : t.exch = s.exch) (ha : t.areas = s.areas) : s.standsUnless (fun _ => False) t where
  modules := hm
  bindings a := by rw [State.areaAt_congr ha]
  fills a := by rw [State.areaAt_congr ha]; exact h.fill_le a
  slots n := by
    rw [State.slotAt_congr hx]
    exact Slot.standsUnless_kept rfl rfl rfl rfl (Or.inl rfl) id (h.lawful n)

/-- One module record changes and names what it named. -/
theorem State.exchangesStand.standsAs_setModule (h : s.exchangesStand) {k : Fin 30} {m : ModuleRecord}
    (hm : (s.moduleAt k).namesUnless (fun _ => False) m) (ht : t.table = (s.setModule k m).table)
    (hx : t.exch = s.exch) (ha : t.areas = s.areas) : s.standsUnless (fun _ => False) t :=
  h.standsAs (fun j => by
    rw [State.moduleAt_congr ht, State.moduleAt_setModule]
    split
    · next hj => rw [hj]; exact hm
    · exact ModuleRecord.namesUnless_same rfl rfl) hx ha

/-- Slots change and stand; modules and areas are as before. -/
theorem State.exchangesStand.standsAs_slots (h : s.exchangesStand) (ht : t.table = s.table) (ha : t.areas = s.areas)
    (hx : ∀ n, (s.slotAt n).standsUnless False (t.slotAt n)) : s.standsUnless (fun _ => False) t where
  modules k := by
    rw [State.moduleAt_congr ht]
    exact ModuleRecord.namesUnless_same rfl rfl
  bindings a := by rw [State.areaAt_congr ha]
  fills a := by rw [State.areaAt_congr ha]; exact h.fill_le a
  slots := hx

/-- One slot changes and stands. -/
theorem State.exchangesStand.standsAs_setSlot (h : s.exchangesStand) (n : Fin 8) {y : Slot}
    (hy : (s.slotAt n).standsUnless False y) : s.standsUnless (fun _ => False) (s.setSlot n y) :=
  h.standsAs_slots rfl rfl fun j => by
    rw [State.slotAt_setSlot]
    split
    · next hj => rw [hj]; exact hy
    · exact Slot.standsUnless_kept rfl rfl rfl rfl (Or.inl rfl) id (h.lawful j)

/-- Areas change and keep their bindings. -/
theorem State.exchangesStand.standsAs_areas (h : s.exchangesStand) (ht : t.table = s.table) (hx : t.exch = s.exch)
    (ha : ∀ a, (t.areaAt a).binding = (s.areaAt a).binding ∧ (t.areaAt a).fill ≤ (t.areaAt a).size) :
    s.standsUnless (fun _ => False) t where
  modules k := by
    rw [State.moduleAt_congr ht]
    exact ModuleRecord.namesUnless_same rfl rfl
  bindings a := (ha a).1
  fills a := (ha a).2
  slots n := by
    rw [State.slotAt_congr hx]
    exact Slot.standsUnless_kept rfl rfl rfl rfl (Or.inl rfl) id (h.lawful n)

end

end Sys2Proof.Machine
end

section
/-! SUPPORT. The module table, the slots and the areas at the two resets; and the statement on them. -/

namespace Sys2Proof.Machine

/-- The four staged sizes of the reset area unit (R130). -/
theorem AreaUnit.reset_staged (a : Fin 4) : AreaUnit.reset.staged[a] = 16#8 := by
  revert a
  decide

/-- Settles O4: table, slots and areas record by record; the link-down step and STOP by their frames. -/
theorem moduleSlotAndAreaResets : Obligations.ModuleSlotAndAreaResets := by
  unfold Obligations.ModuleSlotAndAreaResets
  refine ⟨fun s => ?_, fun s => ?_, fun s => ?_, fun c s => ?_, fun s => ?_⟩
  · refine ⟨_, _, execPowerOnReset_eq s, rfl, rfl, rfl, fun k => ?_, fun k => ?_, fun t ht => ?_⟩
    · rw [State.reset_moduleAt]
      rfl
    · rw [platformValues_moduleAt, ModuleRecord.platformReset, ModuleRecord.linkDown]
      dsimp only
      cases (s.moduleAt k).state <;> rfl
    · rcases ht with rfl | rfl <;> refine ⟨rfl, fun n => ?_⟩
      · rw [State.reset_slotAt]
        rfl
      · rw [platformValues_slotAt]
        rfl
  · refine ⟨_, _, execPowerOnReset_eq s, rfl, rfl, rfl, rfl, rfl, fun t ht => ?_⟩
    rcases ht with rfl | rfl <;> refine ⟨rfl, fun n => ?_, fun k => ?_, fun a => ?_, rfl, rfl⟩
    · rw [State.reset_slotAt]
      rfl
    · rw [State.reset_moduleAt]
      exact ⟨rfl, rfl⟩
    · rw [State.reset_areaAt]
      rfl
    · rw [platformValues_slotAt]
      rfl
    · rw [platformValues_moduleAt]
      exact ⟨rfl, rfl⟩
    · rw [platformValues_areaAt]
      rfl
  · refine ⟨_, _, execPowerOnReset_eq s, rfl, fun a => ?_, AreaUnit.reset_staged, fun a => ?_, rfl, fun t ht => ?_⟩
    · rw [State.reset_areaAt]
      rfl
    · rw [platformValues_areaAt]
      rfl
    · rcases ht with rfl | rfl <;> refine ⟨rfl, fun n => ?_⟩
      · rw [State.reset_slotAt]
        rfl
      · rw [platformValues_slotAt]
        rfl
  · obtain ⟨-, -, -, hareas, -⟩ := linkDownStep_frame c s
    exact hareas
  · obtain ⟨-, hareas, -⟩ := stopDone_frame s
    exact hareas

end Sys2Proof.Machine
end

section
/-! SUPPORT. REGISTER_WRITE: a read-only register refuses the byte, a plain one takes it; and the statement on it. -/

namespace Sys2Proof.Machine

section
variable {v : Byte} {s t : State} {r : Reg}

theorem State.writeClass_of_atReg (h : s.atReg r) : s.writeClass = some (r.writeClass s.image.select) := by
  obtain ⟨-, hr⟩ := h
  simp only [State.writeClass, hr]

/-- At a read-only register: the window error READ_ONLY, and the close of the access (R181). -/
theorem exec_registerWrite_refused (h : s.atReg r) (hc : r.writeClass s.image.select = .readOnly) :
    exec (.registerWrite v) s = .next (erred .readOnly s).finishAccess := by
  have hclass : s.writeClass = some .readOnly := by rw [State.writeClass_of_atReg h, hc]
  exact congrArg Host.Outcome.next ((if_pos hclass).trans (onWrite_eq h hc))

/-- At a plain register: the effect, and INDEX one further (R181). -/
theorem exec_registerWrite_taken (h : s.atReg r) (hc : r.writeClass s.image.select = .plain)
    (ht : writePlain v r s = t) : exec (.registerWrite v) s = .next (stepped t) := by
  have hclass : s.writeClass ≠ some .readOnly := by
    rw [State.writeClass_of_atReg h, hc]
    simp
  exact congrArg Host.Outcome.next
    ((if_neg hclass).trans (onWrite_taken h hc rfl ht (ht ▸ (writePlain_frame v r s).1)))

end

/-- Of the read-only registers RESULT alone keeps INDEX (R181). -/
theorem Reg.keepsIndex_of_readOnly {r : Reg} {select : Fin 4} (h : r.writeClass select = .readOnly)
    (hr : ∀ u, r ≠ .result u) : r.keepsIndex = false := by
  cases r with
  | command u => cases h
  | result u => exact absurd rfl (hr u)
  | dataPort => cases h
  | _ => rfl

/-! ### SUBJECT by unit (R66, R109, R132) -/

theorem writeSubject_modules {v : Byte} {k : Fin 30} (h : v.toNat = moduleAddress k) (s : State) :
    writeSubject .modules v s = { s with table := { s.table with subject := k } } := by
  simp only [writeSubject, h, moduleIndex_address]

theorem writeSubject_modules_ignored {v : Byte} (h : v.toNat = 0 ∨ 30 < v.toNat) (s : State) :
    writeSubject .modules v s = s := by
  simp only [writeSubject, moduleIndex_eq_none.mpr h]

theorem writeSubject_slots {v : Byte} {n : Fin 8} (h : v.toNat = n.val) (s : State) :
    writeSubject .slots v s = { s with exch := { s.exch with subject := n } } := by
  have hn : ∀ hv : v.toNat < 8, (⟨v.toNat, hv⟩ : Fin 8) = n := fun _ => Fin.ext h
  simp only [writeSubject, dif_pos (h ▸ n.isLt : v.toNat < 8), hn]

theorem writeSubject_slots_ignored {v : Byte} (h : 7 < v.toNat) (s : State) : writeSubject .slots v s = s :=
  dif_neg (Nat.not_lt.mpr h)

theorem writeSubject_areas {v : Byte} {a : Fin 4} (h : v.toNat = a.val) (s : State) :
    writeSubject .areas v s = { s with areas := { s.areas with subject := a } } := by
  have ha : ∀ hv : v.toNat < 4, (⟨v.toNat, hv⟩ : Fin 4) = a := fun _ => Fin.ext h
  simp only [writeSubject, dif_pos (h ▸ a.isLt : v.toNat < 4), ha]

theorem writeSubject_areas_ignored {v : Byte} (h : 3 < v.toNat) (s : State) : writeSubject .areas v s = s :=
  dif_neg (Nat.not_lt.mpr h)

/-- Settles O8: the read-only registers by whether INDEX stays, then the plain ones one by one. -/
theorem registerWritesTakenOrRefused : Obligations.RegisterWritesTakenOrRefused := by
  unfold Obligations.RegisterWritesTakenOrRefused
  refine fun v s => ⟨fun u h => ?_, fun r h hc hr => ?_, fun h => ⟨fun k hv => ?_, fun hv => ?_⟩,
    fun h => ⟨fun n hv => ?_, fun hv => ?_⟩, fun h => ⟨fun a hv => ?_, fun hv => ?_⟩, fun h i hv => ?_,
    fun h p hv => ?_⟩
  · rw [exec_registerWrite_refused h rfl, State.finishAccess_kept (t := erred .readOnly s) h.2 rfl rfl rfl]
    rfl
  · rw [exec_registerWrite_refused h hc,
      State.finishAccess_stepped (t := erred .readOnly s) h.2 (Reg.keepsIndex_of_readOnly hc hr) rfl rfl]
  · exact exec_registerWrite_taken h rfl (writeSubject_modules hv s)
  · exact exec_registerWrite_taken h rfl (writeSubject_modules_ignored hv s)
  · exact exec_registerWrite_taken h rfl (writeSubject_slots hv s)
  · exact exec_registerWrite_taken h rfl (writeSubject_slots_ignored hv s)
  · exact exec_registerWrite_taken h rfl (writeSubject_areas hv s)
  · exact exec_registerWrite_taken h rfl (writeSubject_areas_ignored hv s)
  · have hi : (⟨v.toNat % 4, Nat.mod_lt _ (by decide)⟩ : Fin 4) = i := Fin.ext hv
    exact exec_registerWrite_taken h rfl
      (congrArg (fun j => ({ s with image := { s.image with select := j } } : State)) hi)
  · have hp : (⟨v.toNat % 16, Nat.mod_lt _ (by decide)⟩ : Fin 16) = p := Fin.ext hv
    exact exec_registerWrite_taken h rfl
      (congrArg (fun j => ({ s with image := { s.image with page := j } } : State)) hp)

end Sys2Proof.Machine
end

section
/-! SUPPORT. The module commands on the selected record, with their checks in order; and the statement on them. -/

namespace Sys2Proof.Machine

/-! ### A command taken or refused (R183) -/

section
variable {u : UnitId} {code : Byte} {take : State → Taken} {s t : State} {r : ResultCode}

theorem onCommand_accepted (h : s.atCommand u = true) (ht : take s = accept t) (hw : t.window = s.window) :
    onCommand u code take s = answered u code .accepted t := by
  rw [onCommand_answered h (by rw [ht, accept_state, hw]) (by rw [ht, accept_state, hw]), ht, accept_state,
    accept_result]

theorem onCommand_refused (h : s.atCommand u = true) (ht : take s = refuse r s) :
    onCommand u code take s = answered u code r s := by
  rw [onCommand_answered h (by rw [ht, refuse_state]) (by rw [ht, refuse_state]), ht, refuse_state, refuse_result]

end

/-! ### The checks (Table 4-4) -/

theorem ModuleState.expectable_eq_false_iff (st : ModuleState) : st.expectable = false ↔
    st = .present ∨ st = .suspect ∨ st = .lost ∨ st = .disabled := by
  cases st <;> simp [ModuleState.expectable]

theorem ModuleState.adoptable_eq_false_iff (st : ModuleState) : st.adoptable = false ↔
    st ≠ .found ∧ st ≠ .mismatch := by
  cases st <;> simp [ModuleState.adoptable]

/-- DISABLE records was-configured of a module that is not DISABLED (R80). -/
theorem ModuleState.configured_eq {st : ModuleState} (h : st ≠ .disabled) :
    st.configured = decide (st ≠ .vacant ∧ st ≠ .found) := by
  cases st with
  | disabled => exact absurd rfl h
  | _ => rfl

theorem ModuleRecord.unused_eq_false_iff (m : ModuleRecord) :
    m.unused = false ↔ m.holder ≠ .none ∨ m.waiting ≠ [] := by
  rw [← Bool.not_eq_true, m.unused_iff, not_and_or]

/-- The map check of EXPECT fails (R77). -/
theorem ModuleRecord.mapOk_eq_false_iff (m : ModuleRecord) : m.mapOk = false ↔
    ¬ (m.inLength.toNat ≤ 32 ∧ m.outLength.toNat ≤ 32 ∧
      m.inOffset.toNat + m.inLength.toNat ≤ 1024 ∧ m.outOffset.toNat + m.outLength.toNat ≤ 1024) := by
  rw [← Bool.not_eq_true, m.mapOk_iff, m.regionsInside_iff]

/-- ADOPT's check of the reported fields fails (R78). -/
theorem ModuleRecord.reportOk_eq_false_iff (m : ModuleRecord) : (m.formatOk && m.lengthOk) = false ↔
    ¬ (m.repIn.toNat ≤ 32 ∧ m.repOut.toNat ≤ 32 ∧ 1 ≤ m.repMax.toNat ∧ m.repMax.toNat ≤ 64 ∧
      m.repIn = m.inLength ∧ m.repOut = m.outLength ∧
      m.inOffset.toNat + m.inLength.toNat ≤ 1024 ∧ m.outOffset.toNat + m.outLength.toNat ≤ 1024) := by
  rw [← Bool.not_eq_true, Bool.and_eq_true, m.formatOk_iff, m.lengthOk_iff, m.regionsInside_iff]
  simp only [and_assoc]

/-! ### The commands, check by check -/

section
variable (s : State)

theorem takeExpect_eq : takeExpect s =
    if s.selModule.state.expectable = false then refuse .wrongState s
    else if s.selModule.mapOk = false then refuse .badArgument s
    else accept (s.setModule s.table.subject s.selModule.enterExpected) :=
  if_congr (by rw [Bool.not_eq_true']) rfl (if_congr (by rw [Bool.not_eq_true']) rfl rfl)

theorem takeAdopt_eq : takeAdopt s =
    if s.selModule.state.adoptable = false then refuse .wrongState s
    else if (s.selModule.formatOk && s.selModule.lengthOk) = false then refuse .badArgument s
    else accept (s.setModule s.table.subject
      { s.selModule.enterPresent with expectedType := s.selModule.repType }) :=
  if_congr (by rw [Bool.not_eq_true']) rfl (if_congr (by rw [Bool.not_eq_true']) rfl rfl)

theorem takeForget_eq : takeForget s =
    if s.selModule.state = .disabled then refuse .wrongState s
    else if s.selModule.unused = false then refuse .inUse s
    else accept (s.setModule s.table.subject (s.selModule.setAside .vacant)) :=
  if_congr Iff.rfl rfl (if_congr (by rw [Bool.not_eq_true']) rfl rfl)

theorem takeDisable_eq : takeDisable s =
    if s.selModule.state = .disabled then refuse .wrongState s
    else if s.selModule.unused = false then refuse .inUse s
    else accept (s.setModule s.table.subject
      { s.selModule.setAside .disabled with wasConfigured := s.selModule.state.configured }) :=
  if_congr Iff.rfl rfl (if_congr (by rw [Bool.not_eq_true']) rfl rfl)

end

/-- A module command with two checks is answered by the first that fails; the checks and the new record may be said in
other words. -/
theorem onCommand_checked {code : Byte} {take : State → Taken} {s : State} {m m' : ModuleRecord}
    {b1 b2 c1 c2 : Prop} [Decidable b1] [Decidable b2] [Decidable c1] [Decidable c2] {r1 r2 : ResultCode}
    (h : s.atCommand .modules = true)
    (ht : take s = if b1 then refuse r1 s else if b2 then refuse r2 s else accept (s.setModule s.table.subject m))
    (h1 : b1 ↔ c1) (h2 : b2 ↔ c2) (hm : ¬ c1 → m = m') :
    onCommand .modules code take s = if c1 then answered .modules code r1 s else
      if c2 then answered .modules code r2 s
      else answered .modules code .accepted (s.setModule s.table.subject m') := by
  by_cases hc1 : c1
  · rw [if_pos hc1]
    exact onCommand_refused h (ht.trans (if_pos (h1.mpr hc1)))
  · rw [if_neg hc1, ← hm hc1]
    rw [if_neg (mt h1.mp hc1)] at ht
    by_cases hc2 : c2
    · rw [if_pos hc2]
      exact onCommand_refused h (ht.trans (if_pos (h2.mpr hc2)))
    · rw [if_neg hc2]
      exact onCommand_accepted h (ht.trans (if_neg (mt h2.mp hc2))) rfl

/-- Settles O29: each command's checks in order, and its record. -/
theorem moduleCommandsTakenInOrder : Obligations.ModuleCommandsTakenInOrder := by
  unfold Obligations.ModuleCommandsTakenInOrder
  intro s h k m inside inUse
  refine ⟨congrArg Host.Outcome.next ?_, congrArg Host.Outcome.next ?_, congrArg Host.Outcome.next ?_,
    congrArg Host.Outcome.next ?_, congrArg Host.Outcome.next ?_⟩
  · exact onCommand_checked h (takeExpect_eq s) m.state.expectable_eq_false_iff m.mapOk_eq_false_iff fun _ => rfl
  · exact onCommand_checked h (takeAdopt_eq s) m.state.adoptable_eq_false_iff m.reportOk_eq_false_iff fun _ => rfl
  · exact onCommand_checked h (takeForget_eq s) Iff.rfl m.unused_eq_false_iff fun _ => rfl
  · exact onCommand_checked h (takeDisable_eq s) Iff.rfl m.unused_eq_false_iff fun hd =>
      congrArg (fun b => { m.setAside .disabled with wasConfigured := b }) (ModuleState.configured_eq hd)
  · split
    · next hd => exact onCommand_accepted h (if_pos hd) rfl
    · next hd => exact onCommand_refused h (if_neg hd)

end Sys2Proof.Machine
end

section
/-! SUPPORT. RETIRE and RESTART: the slot, its area and its module after each; and the statement on them. -/

namespace Sys2Proof.Machine

/-! ### Clearing, unbinding, queueing -/

theorem clearRun_slotAt (n : Fin 8) (s : State) (j : Fin 8) :
    (clearRun n s).slotAt j = if j = n then { s.slotAt j with run := SlotRun.cleared } else s.slotAt j :=
  State.slotAt_updSlot s j n _

theorem SlotHost.direction_isSome_iff (h : SlotHost) : h.direction ≠ none ↔ h.kind = 1#8 ∨ h.kind = 2#8 := by
  unfold SlotHost.direction
  split
  · simp [*]
  · split <;> simp [*]

theorem unbindArea_areas_none {h : SlotHost} (hd : h.direction = none) (s : State) :
    (unbindArea h s).areas = s.areas := by
  simp only [unbindArea, hd]

theorem unbindArea_eq {h : SlotHost} (hd : h.direction ≠ none) (s : State) :
    unbindArea h s = s.setArea h.area { s.areaAt h.area with binding := none } := by
  unfold unbindArea
  split
  · rfl
  · next hn => exact absurd hn hd

theorem unbindArea_areaAt (h : SlotHost) (s : State) (a : Fin 4) :
    (unbindArea h s).areaAt a =
      if h.direction ≠ none ∧ a = h.area then { s.areaAt a with binding := none } else s.areaAt a := by
  by_cases hd : h.direction = none
  · rw [State.areaAt_congr (unbindArea_areas_none hd s), if_neg fun h => h.1 hd]
  · rw [unbindArea_eq hd, State.areaAt_setArea]
    by_cases ha : a = h.area
    · rw [if_pos ha, if_pos ⟨hd, ha⟩, ha]
    · rw [if_neg ha, if_neg fun h => ha h.2]

theorem unbindArea_memory (h : SlotHost) (s : State) : (unbindArea h s).areas.memory = s.areas.memory := by
  unfold unbindArea
  split <;> rfl

theorem enqueueSlot_slotAt (n : Fin 8) (s : State) (j : Fin 8) :
    (enqueueSlot n s).slotAt j = if j = n then { s.slotAt j with state := .queued } else s.slotAt j := by
  obtain ⟨-, -, -, -, -, hexch, -⟩ :=
    State.updModuleOf_frame (s.updSlot n fun x => { x with state := .queued }) (s.slotAt n) (ModuleRecord.append n)
  rw [enqueueSlot, State.slotAt_congr hexch, State.slotAt_updSlot]

theorem enqueueSlot_moduleAt {n : Fin 8} {s : State} {k : Fin 30}
    (hk : (s.slotAt n).host.moduleAddr.toNat = moduleAddress k) (j : Fin 30) :
    (enqueueSlot n s).moduleAt j = if j = k then (s.moduleAt j).append n else s.moduleAt j :=
  updModuleOf_moduleAt _ hk j

/-! ### RETIRE (R120) -/

theorem retireSlot_slotAt (n : Fin 8) (s : State) (j : Fin 8) : (retireSlot n s).slotAt j =
    if j = n then { s.slotAt j with state := .free, run := SlotRun.cleared } else s.slotAt j := by
  have hexch : (unbindArea (s.slotAt n).host (oweCancel n s)).exch = s.exch := by simp
  rw [retireSlot, State.slotAt_updSlot, clearRun_slotAt, State.slotAt_congr hexch]
  split <;> rfl

theorem retireSlot_areas (n : Fin 8) (s : State) :
    (retireSlot n s).areas = (unbindArea (s.slotAt n).host (oweCancel n s)).areas := rfl

theorem retireSlot_areaAt (n : Fin 8) (s : State) (a : Fin 4) : (retireSlot n s).areaAt a =
    if (s.slotAt n).host.direction ≠ none ∧ a = (s.slotAt n).host.area then { s.areaAt a with binding := none }
    else s.areaAt a := by
  have hareas : (oweCancel n s).areas = s.areas := by simp
  rw [State.areaAt_congr (retireSlot_areas n s), unbindArea_areaAt, State.areaAt_congr hareas]

/-- The slot owes a cancel: ABORTED with a recorded phase (R120 step 1). -/
def Slot.owesCancel (x : Slot) : Prop := x.state = .aborted ∧ x.run.recordedPhase ≠ .none

theorem oweCancel_none {n : Fin 8} {s : State} (h : ¬ (s.slotAt n).owesCancel) : oweCancel n s = s := if_neg h

theorem oweCancel_moduleAt {n : Fin 8} {s : State} {k : Fin 30} (h : (s.slotAt n).owesCancel)
    (hk : (s.slotAt n).host.moduleAddr.toNat = moduleAddress k) (j : Fin 30) : (oweCancel n s).moduleAt j =
      if j = k then (s.moduleAt j).releaseForCancel n (s.slotAt n).host.tag else s.moduleAt j := by
  rw [show oweCancel n s = _ from if_pos h]
  exact updModuleOf_moduleAt _ hk j

/-- A holder that is this slot becomes CANCEL_PENDING with its tag (R82). -/
theorem ModuleRecord.releaseForCancel_eq {m : ModuleRecord} {n : Fin 8} (h : m.holder = .slot n) (tag : Half) :
    m.releaseForCancel n tag = { m with holder := .cancelPending tag, cancelHold := 0 } := if_pos h

/-! ### RESTART (R121) -/

theorem Slot.restartable_iff (x : Slot) : x.restartable = true ↔
    x.state = .done ∨ x.state = .failed ∨ (x.state = .aborted ∧ x.run.recordedPhase = .none) := by
  unfold Slot.restartable
  cases x.state <;> simp

theorem State.moduleTakesSlot_eq {x : Slot} {k : Fin 30} (hk : x.host.moduleAddr.toNat = moduleAddress k) (s : State) :
    s.moduleTakesSlot x = (s.moduleAt k).state.takesSlots := by
  simp only [State.moduleTakesSlot, Slot.module, hk, moduleIndex_address]

theorem takeRestart_accepted {s : State} (hr : s.selSlot.restartable = true)
    (hm : s.moduleTakesSlot s.selSlot = true) :
    takeRestart s = accept (enqueueSlot s.exch.subject (clearRun s.exch.subject s)) := by
  simp only [takeRestart, hr, hm, Bool.not_true, Bool.false_eq_true, if_false]

theorem takeRestart_absent {s : State} (hr : s.selSlot.restartable = true)
    (hm : s.moduleTakesSlot s.selSlot = false) : takeRestart s = refuse .absent s := by
  simp only [takeRestart, hr, hm, Bool.not_true, Bool.not_false, Bool.false_eq_true, if_false, if_true]

theorem takeRestart_wrongState {s : State} (hr : s.selSlot.restartable = false) :
    takeRestart s = refuse .wrongState s := if_pos (by rw [hr]; rfl)

theorem exec_retire {s : State} (h : s.atCommand .slots = true) (hx : s.selSlot.state.ended = true) :
    exec .retire s = .next (answered .slots 2#8 .accepted (retireSlot s.exch.subject s)) :=
  congrArg Host.Outcome.next (onCommand_accepted h (if_pos hx) (retireSlot_frame _ s).1)

/-- Settles O35: RETIRE by the lemmas on the retired slot, RESTART by its two checks. -/
theorem endedSlotRetiredOrRestarted : Obligations.EndedSlotRetiredOrRestarted := by
  unfold Obligations.EndedSlotRetiredOrRestarted
  refine ⟨fun s h => ?_, fun s h => ?_⟩
  · intro n x owed
    refine ⟨fun hx => ?_, fun hx => ⟨_, exec_retire h hx, ?_⟩⟩
    · exact congrArg Host.Outcome.next (onCommand_refused h (if_neg (by rw [hx]; simp)))
    · obtain ⟨hwindow, hline, hlink, hsched, himage, hnotices, -⟩ := retireSlot_frame n s
      refine ⟨?_, fun j hj => ?_, fun hk => ⟨?_, fun a ha => ?_⟩, fun h1 h2 => ?_, fun ho => ?_,
        fun ho k hk hh => ⟨?_, fun j hj => ?_⟩, ?_, hline, hlink, hsched, himage, hnotices, hwindow⟩
      · rw [retireSlot_slotAt, if_pos rfl]
        rfl
      · rw [retireSlot_slotAt, if_neg hj]
      · rw [retireSlot_areaAt, if_pos ⟨x.host.direction_isSome_iff.mpr hk, rfl⟩]
      · rw [retireSlot_areaAt, if_neg fun hc => ha hc.2]
      · have hd : x.host.direction = none := by
          by_contra hn
          exact (x.host.direction_isSome_iff.mp hn).elim h1 h2
        rw [retireSlot_areas]
        exact (unbindArea_areas_none hd _).trans (by simp)
      · rw [retireSlot_table, oweCancel_none ho]
      · rw [State.moduleAt_congr (retireSlot_table _ s), oweCancel_moduleAt ho hk, if_pos rfl,
          ModuleRecord.releaseForCancel_eq hh]
        rfl
      · rw [State.moduleAt_congr (retireSlot_table _ s), oweCancel_moduleAt ho hk, if_neg hj]
      · rw [retireSlot_areas, unbindArea_memory]
        simp
  · intro n x may
    have hmay : x.restartable = true ↔ may := x.restartable_iff
    refine ⟨fun hm => ?_, fun k hm hk => ⟨fun ht => ?_, fun ht => ⟨enqueueSlot n (clearRun n s), ?_, ?_⟩⟩⟩
    · exact congrArg Host.Outcome.next (onCommand_refused h (takeRestart_wrongState (by simpa [hm] using hmay)))
    · exact congrArg Host.Outcome.next (onCommand_refused h
        (takeRestart_absent (hmay.mpr hm) ((State.moduleTakesSlot_eq hk s).trans ht)))
    · exact congrArg Host.Outcome.next (onCommand_accepted h
        (takeRestart_accepted (hmay.mpr hm) ((State.moduleTakesSlot_eq hk s).trans ht)) (by simp))
    · have hcleared : (clearRun n s).slotAt n = { x with run := SlotRun.cleared } := by
        rw [clearRun_slotAt, if_pos rfl]
        rfl
      have hmodule : ∀ j, (clearRun n s).moduleAt j = s.moduleAt j := fun _ => rfl
      refine ⟨?_, ?_, fun j hj => ?_, fun j hj => ?_, by simp⟩
      · rw [enqueueSlot_slotAt, if_pos rfl, hcleared]
      · rw [enqueueSlot_moduleAt (by rw [hcleared]; exact hk), if_pos rfl, hmodule]
        rfl
      · rw [enqueueSlot_slotAt, if_neg hj, clearRun_slotAt, if_neg hj]
      · rw [enqueueSlot_moduleAt (by rw [hcleared]; exact hk), if_neg hj, hmodule]

end Sys2Proof.Machine
end

section
/-! SUPPORT. The shared operations on modules, and what each leaves of the agreement: failure counting, loss, mismatch,
SCAN, PROBE, CANCEL and the link-down step. -/

namespace Sys2Proof.Machine

section
variable {s t : State} {p : Option (Fin 8)}

/-- A slot is named by one module at most. -/
theorem State.exchangesStand.names_unique (h : s.exchangesStand) {j k : Fin 30} {n : Fin 8} (hj : s.names j n)
    (hk : s.names k n) : j = k := Option.some.inj ((h.named hj).1.symm.trans (h.named hk).1)

/-- A waiting slot is no holder. -/
theorem State.exchangesStand.holder_ne_of_waiting (h : s.exchangesStand) {k : Fin 30} {n : Fin 8}
    (hn : n ∈ (s.moduleAt k).waiting) : (s.moduleAt k).holder ≠ .slot n := by
  intro hh
  have hholds := ((h.holder_iff k n).mp hh).1
  rw [Slot.holds, ((h.waiting_iff k n).mp hn).1] at hholds
  cases hholds

/-- The slots of a module that names others are kept by a change of module `k` alone. -/
theorem State.exchangesStand.namesUnless_other (h : s.exchangesStand) {E : Fin 8 → Prop} {j k : Fin 30} (hj : j ≠ k)
    (hE : ∀ n, E n → s.names k n) : (s.moduleAt j).namesUnless E (s.moduleAt j) :=
  ModuleRecord.namesUnless_kept rfl rfl fun _ he hn => hj (h.names_unique hn (hE _ he))

theorem State.exchangesStand.fills (h : s.exchangesStand) (ha : t.areas = s.areas) : t.fillsInside := fun a => by
  rw [State.areaAt_congr ha]
  exact h.fill_le a

theorem State.exchangesStand.slot_kept (h : s.exchangesStand) {e : Prop} (he : ¬ e) (n : Fin 8) :
    (s.slotAt n).standsUnless e (s.slotAt n) := Slot.standsUnless_kept rfl rfl rfl rfl (Or.inl rfl) he (h.lawful n)

/-! ### Loss and mismatch -/

/-- LOST: the holder and the waiting slots let go (R69). -/
theorem State.exchangesStand.enterLost (h : s.exchangesStand) (k : Fin 30) (c : ModuleCause) :
    s.standsUnless (s.names k) (enterLost k c s) where
  modules j := by
    by_cases hj : j = k
    · rw [hj, enterLost_own]
      exact ModuleRecord.namesUnless_emptied (by simp [ModuleRecord.lostBy]) rfl fun _ => id
    · rw [enterLost_other c s hj]
      exact h.namesUnless_other hj fun _ => id
  bindings a := congrArg AreaRecord.binding (State.areaAt_congr (by simp) a)
  fills := h.fills (by simp)
  slots n := by
    rw [enterLost_slotAt]
    split
    · next hn => exact Slot.standsUnless_atEnd _ (Or.inr rfl) (h.lawful n) (h.named hn).2 hn
    · next hn => exact h.slot_kept hn n

/-- MISMATCH: the waiting slots let go (R74). -/
theorem State.exchangesStand.enterMismatch (h : s.exchangesStand) (k : Fin 30) (c : MismatchCause) :
    s.standsUnless (fun n => n ∈ (s.moduleAt k).waiting) (enterMismatch k c s) where
  modules j := by
    rw [enterMismatch_moduleAt]
    split
    · next hj =>
      rw [hj]
      exact {
        holder := fun n => ⟨fun hn => ⟨hn, fun he => h.holder_ne_of_waiting he hn⟩, And.left⟩
        waiting := fun n => ⟨fun hn => (by cases hn), fun hn => absurd hn.1 hn.2⟩
        sublist := List.nil_sublist _ }
    · next hj => exact h.namesUnless_other hj fun _ => Or.inr
  bindings a := congrArg AreaRecord.binding (State.areaAt_congr (by simp) a)
  fills := h.fills (by simp)
  slots n := by
    rw [enterMismatch_slotAt]
    split
    · next hn => exact Slot.standsUnless_atEnd _ (Or.inr rfl) (h.lawful n) (h.named (Or.inr hn)).2 hn
    · next hn => exact h.slot_kept hn n

/-! ### The link-down step (R36, R89, R126) -/

theorem State.exchangesStand.endedByLinkDown_of_named (h : s.exchangesStand) {k : Fin 30} {n : Fin 8}
    (hn : s.names k n) : (s.slotAt n).state.endedByLinkDown = true := by
  rcases hn with hn | hn
  · have hholds := ((h.holder_iff k n).mp hn).1
    unfold Slot.holds at hholds
    cases hs : (s.slotAt n).state <;> simp [hs, SlotState.endedByLinkDown] at hholds ⊢
  · rw [((h.waiting_iff k n).mp hn).1]
    rfl

/-- The slots that the link-down step ends let go of their modules, and no module names a slot any more. -/
theorem State.exchangesStand.linkDownStep (h : s.exchangesStand) (c : Condition) :
    s.standsUnless (fun n => (s.slotAt n).state.endedByLinkDown = true) (linkDownStep c s) where
  modules k := by
    rw [linkDownStep_moduleAt]
    exact ModuleRecord.namesUnless_emptied (by simp [ModuleRecord.linkDown]) rfl fun n =>
      h.endedByLinkDown_of_named
  bindings a := congrArg AreaRecord.binding (State.areaAt_congr (by simp) a)
  fills := h.fills (by simp)
  slots n := by
    rw [linkDownStep_slotAt]
    split
    · next hn =>
      exact Slot.standsUnless_atEnd _ (Or.inr rfl) (h.lawful n)
        (fun hf => by rw [hf] at hn; cases hn) hn
    · next hn => exact h.slot_kept hn n

/-- After the link-down step nothing is pending, where no request was in flight. -/
theorem State.exchangesStand.settled_linkDownStep (h : s.exchangesStand) (hi : ∀ n, (s.slotAt n).inFlight = none)
    (c : Condition) : (Machine.linkDownStep c s).settledBut none := by
  refine ⟨h.change (h.linkDownStep c), fun n _ => ⟨?_, fun hp => ?_⟩⟩
  · rw [linkDownStep_slotAt]
    split <;> exact hi n
  · have hended := linkDownStep_slots_ended c s n
    rw [hp] at hended
    cases hended

end

/-! ### Failure counting (R67) -/

/-- What failure counting can do: nothing, a record whose holder and waiting list stay, or LOST. -/
theorem countOutcome_cases (k : Fin 30) (o : TxnOutcome) (s : State) :
    countOutcome k o s = s ∨
    (∃ m, m.holder = (s.moduleAt k).holder ∧ m.waiting = (s.moduleAt k).waiting ∧
      countOutcome k o s = s.setModule k m) ∨
    ∃ c, countOutcome k o s = enterLost k c s := by
  cases hs : (s.moduleAt k).state.inService with
  | false => exact Or.inl (countOutcome_unchanged (Or.inl hs))
  | true =>
    have hfailure : o.isError → (∃ m, m.holder = (s.moduleAt k).holder ∧ m.waiting = (s.moduleAt k).waiting ∧
        countOutcome k o s = s.setModule k m) ∨ ∃ c, countOutcome k o s = enterLost k c s := by
      intro ho
      rw [countOutcome_error ho hs]
      by_cases hlim : (s.moduleAt k).failCount + 1 < s.link.threshold.toNat
      · exact Or.inl ⟨{ s.moduleAt k with failCount := (s.moduleAt k).failCount + 1, state := .suspect }, rfl, rfl,
          countFailure_below hlim⟩
      · exact Or.inr ⟨.failures, if_neg hlim⟩
    cases o with
    | reply r =>
      exact Or.inr (Or.inl ⟨{ s.moduleAt k with failCount := 0, state := .present }, rfl, rfl,
        countOutcome_reply r hs⟩)
    | timeout => exact Or.inr (hfailure (Or.inl rfl))
    | corrupt => exact Or.inr (hfailure (Or.inr (Or.inl rfl)))
    | stray => exact Or.inr (hfailure (Or.inr (Or.inr rfl)))
    | echoFault => exact Or.inl (countOutcome_unchanged (Or.inr (Or.inl rfl)))
    | abandoned => exact Or.inl (countOutcome_unchanged (Or.inr (Or.inr rfl)))

/-- What a CANCEL outcome can do to the holder: nothing, or free it or count a HOLD where the cancel is pending. -/
theorem settleCancel_cases (k : Fin 30) (o : TxnOutcome) (s : State) : settleCancel k o s = s ∨
    (∃ tag, (s.moduleAt k).holder = .cancelPending tag) ∧
      (settleCancel k o s = endCancel k s ∨ settleCancel k o s = holdCancel k s) := by
  cases hh : (s.moduleAt k).holder with
  | none => exact Or.inl (by simp only [settleCancel, hh])
  | slot n => exact Or.inl (by simp only [settleCancel, hh])
  | cancelPending tag =>
    match o with
    | .reply (some r) =>
      cases hr : r.kind with
      | accept | refuse => exact Or.inr ⟨⟨tag, rfl⟩, Or.inl (by simp only [settleCancel, hh, hr])⟩
      | hold => exact Or.inr ⟨⟨tag, rfl⟩, Or.inr (by simp only [settleCancel, hh, hr])⟩
      | scanReply | ident | data | result => exact Or.inl (by simp only [settleCancel, hh, hr])
    | .reply none | .timeout | .corrupt | .stray | .echoFault | .abandoned =>
      exact Or.inl (by simp only [settleCancel, hh])

/-! ### Each operation on a settled state -/

namespace State.settledBut

variable {s : State} {p : Option (Fin 8)}

theorem setModule (h : s.settledBut p) {k : Fin 30} {m : ModuleRecord} (hh : m.holder = (s.moduleAt k).holder)
    (hw : m.waiting = (s.moduleAt k).waiting) : (s.setModule k m).settledBut p :=
  h.change (h.1.standsAs_setModule (ModuleRecord.namesUnless_same hh hw) rfl rfl rfl)

theorem enterLost (h : s.settledBut p) (k : Fin 30) (c : ModuleCause) : (Machine.enterLost k c s).settledBut p :=
  h.change (h.1.enterLost k c)

theorem enterMismatch (h : s.settledBut p) (k : Fin 30) (c : MismatchCause) :
    (Machine.enterMismatch k c s).settledBut p := h.change (h.1.enterMismatch k c)

theorem countOutcome (h : s.settledBut p) (k : Fin 30) (o : TxnOutcome) :
    (Machine.countOutcome k o s).settledBut p := by
  rcases countOutcome_cases k o s with e | ⟨m, hh, hw, e⟩ | ⟨c, e⟩ <;> rw [e]
  · exact h
  · exact h.setModule hh hw
  · exact h.enterLost k c

theorem takeScan (h : s.settledBut p) (k : Fin 30) (o : TxnOutcome) : (Machine.takeScan k o s).settledBut p := by
  cases hs : (s.moduleAt k).state.inService with
  | false =>
    rw [takeScan_unchanged (Or.inl hs)]
    exact h
  | true =>
    match o with
    | .reply (some r) =>
      rw [takeScan_reply r hs]
      exact h.setModule (m := (s.moduleAt k).refreshedBy (r.payload.headD 0#8)) rfl rfl
    | .timeout | .corrupt | .stray => exact h.countOutcome k _
    | .reply none | .echoFault | .abandoned => exact h

theorem takeProbe (h : s.settledBut p) (k : Fin 30) (o : TxnOutcome) : (Machine.takeProbe k o s).settledBut p := by
  match o with
  | .reply (some r) =>
    show (takeIdent k (identOf r.payload) s).settledBut p
    rcases takeIdent_cases k (identOf r.payload) s with e | ⟨m, b, hh, hw, e⟩ | ⟨c, e⟩ <;> rw [e]
    · exact h
    · exact h.setModule hh hw
    · exact (h.setModule (m := (s.moduleAt k).reported (identOf r.payload)) rfl rfl).enterMismatch k c
  | .reply none | .timeout | .corrupt | .stray | .echoFault | .abandoned => exact h

theorem settleCancel (h : s.settledBut p) (k : Fin 30) (o : TxnOutcome) :
    (Machine.settleCancel k o s).settledBut p := by
  rcases settleCancel_cases k o s with e | ⟨⟨tag, htag⟩, e | e⟩ <;> rw [e]
  · exact h
  · refine h.change (h.1.standsAs_setModule (m := { s.moduleAt k with holder := .none, cancelHold := 0 }) ?_ rfl rfl
      rfl)
    exact {
      holder := fun n => by simp [htag]
      waiting := fun n => by simp
      sublist := List.Sublist.refl _ }
  · rw [holdCancel_eq]
    have hheld := h.setModule (k := k)
      (m := { s.moduleAt k with cancelHold := min 255 ((s.moduleAt k).cancelHold + 1) }) rfl rfl
    dsimp only
    split
    · exact hheld.enterLost k _
    · exact hheld

theorem takeCancel (h : s.settledBut p) (k : Fin 30) (o : TxnOutcome) :
    (Machine.takeCancel k o s).settledBut p := by
  have hsettled : (cancelSettled k o s).settledBut p := by
    unfold cancelSettled
    split
    · exact (h.countOutcome k o).settleCancel k o
    · exact h.countOutcome k o
  rw [takeCancel_eq]
  split
  · rw [deferCancel_eq]
    exact hsettled
  · exact hsettled

end State.settledBut

end Sys2Proof.Machine
end

section
/-! SUPPORT. The outcome of a slot's transaction at the slot and its module, and what it leaves of the agreement. -/

namespace Sys2Proof.Machine

/-! ### The module a usable slot names -/

theorem SlotHost.module_of_usable {h : SlotHost} (hu : h.usable = true) :
    ∃ k : Fin 30, h.moduleAddr.toNat = moduleAddress k := by
  simp only [SlotHost.usable, Bool.and_eq_true] at hu
  obtain ⟨⟨⟨⟨hmodule, -⟩, -⟩, -⟩, -⟩ := hu
  obtain ⟨k, hk⟩ := Option.isSome_iff_exists.mp hmodule
  exact ⟨k, moduleIndex_eq_some.mp hk⟩

/-- A slot out of FREE names a module (R117). -/
theorem State.exchangesStand.module_of_slot {s : State} (h : s.exchangesStand) {n : Fin 8}
    (hn : (s.slotAt n).state ≠ .free) : ∃ k : Fin 30, (s.slotAt n).host.moduleAddr.toNat = moduleAddress k :=
  SlotHost.module_of_usable ((h.lawful n).usable hn)

/-! ### A slot's law through its phases -/

section
variable {x : Slot}

theorem Phase.state_phase (p : Phase) : p.state.phase = p := by cases p <;> rfl

theorem Phase.state_takes {p : Phase} (h : p ≠ .none) : p.state ≠ .abortPending ∧ p.state.inPhase = true := by
  cases p with
  | none => exact absurd rfl h
  | opening | transferring | closing => exact ⟨by simp [Phase.state], rfl⟩

/-- A phase entered, or recorded in ABORT_PENDING: the slot may take an outcome (R112, R146). -/
theorem Slot.atPhase_takesOutcome (x : Slot) {p : Phase} (h : p ≠ .none) : (x.atPhase p).takesOutcome = true := by
  simp only [Slot.takesOutcome, Slot.atPhase]
  split
  · simp
  · simp [(Phase.state_takes h).2]

/-- A slot with `y` for its fields moves from `x` to another phase, with the progress that the phase allows. -/
theorem Slot.standsUnless_atPhase {y : Slot} {p : Phase} (ht : x.takesOutcome = true) (hl : x.lawful)
    (hp : p = .transferring ∨ p = .closing) (hh : y.host = x.host) (hs : y.state = x.state)
    (hi : y.inFlight = x.inFlight) (hm : p = .transferring → y.run.bytesMoved < x.host.declared.toNat) :
    x.standsUnless False (y.atPhase p) := by
  have hne : p ≠ .none := by rcases hp with rfl | rfl <;> simp
  have hopening : p ≠ .opening := by rcases hp with rfl | rfl <;> simp
  have hty := y.atPhase_takesOutcome hne
  refine Slot.standsUnless_taking ht hty hh (fun hq => ⟨hi.trans hq.1, ?_⟩) id
    ((Slot.lawful_taking_iff hty).mpr ⟨?_, hne, fun hphase => ?_, fun e => absurd e hopening, fun e => ?_⟩)
  · simp only [Slot.atPhase, hs, if_neg hq.2]
    exact (Phase.state_takes hne).1
  · exact hh ▸ hl.usable (Slot.ne_free_of_takesOutcome ht)
  · have hx : y.state ≠ .abortPending := fun e => by
      simp only [Slot.atPhase, e, if_true] at hphase
      cases hphase
    rw [Slot.atPhase_eq p hx]
    exact p.state_phase.symm
  · exact hh ▸ hm e

/-- A piece settled: CLOSING when all bytes have moved, else on in TRANSFERRING (R148, R151). -/
theorem Slot.standsUnless_afterPiece {y : Slot} (ht : x.takesOutcome = true) (hl : x.lawful) (hh : y.host = x.host)
    (hs : y.state = x.state) (hi : y.inFlight = x.inFlight) (hx : x.run.recordedPhase = .transferring)
    (hp : y.run.recordedPhase = .transferring) (hm : y.run.bytesMoved ≤ x.host.declared.toNat) :
    x.standsUnless False y.afterPiece := by
  unfold Slot.afterPiece
  split
  · exact Slot.standsUnless_atPhase ht hl (Or.inr rfl) hh hs hi (fun e => by cases e)
  · next hlt =>
    have hty : y.takesOutcome = true := by
      rw [Slot.takesOutcome, hs]
      exact ht
    obtain ⟨husable, -, hphase, -, -⟩ := (Slot.lawful_taking_iff ht).mp hl
    refine Slot.standsUnless_taking ht hty hh (fun hq => ⟨hi.trans hq.1, by rw [hs]; exact hq.2⟩) id
      ((Slot.lawful_taking_iff hty).mpr
        ⟨by rw [hh]; exact husable, by rw [hp]; simp, fun e => ?_, fun e => ?_, fun _ => ?_⟩)
    · rw [hs] at e ⊢
      rw [hp, ← hphase e, hx]
    · rw [hp] at e
      cases e
    · rw [hh] at hlt ⊢
      omega

theorem Slot.standsUnless_opened (ht : x.takesOutcome = true) (hl : x.lawful) (hx : x.run.recordedPhase = .opening) :
    x.standsUnless False x.opened := by
  have hmoved := hl.notMoved (Or.inr hx)
  unfold Slot.opened
  split
  · exact Slot.standsUnless_atPhase ht hl (Or.inr rfl) rfl rfl rfl (fun e => by cases e)
  · next hd =>
    refine Slot.standsUnless_atPhase ht hl (Or.inl rfl) rfl rfl rfl fun _ => ?_
    show x.run.bytesMoved < x.host.declared.toNat
    rw [hmoved]
    exact Nat.pos_of_ne_zero fun e => hd (BitVec.eq_of_toNat_eq e)

theorem Slot.standsUnless_afterPut {e : Nat} (bit : Bool) (ht : x.takesOutcome = true) (hl : x.lawful)
    (hx : x.run.recordedPhase = .transferring) (he : x.run.bytesMoved + e ≤ x.host.declared.toNat) :
    x.standsUnless False (x.afterPut e bit) :=
  Slot.standsUnless_afterPiece ht hl rfl rfl rfl hx hx he

theorem Slot.standsUnless_afterData {e k : Nat} (ht : x.takesOutcome = true) (hl : x.lawful)
    (hx : x.run.recordedPhase = .transferring) (he : x.run.bytesMoved + e ≤ x.host.declared.toNat) (hk : k ≤ e) :
    x.standsUnless False (x.afterData e k) := by
  unfold Slot.afterData
  dsimp only
  split
  · exact Slot.standsUnless_atPhase ht hl (Or.inr rfl) rfl rfl rfl (fun e => by cases e)
  · exact Slot.standsUnless_afterPiece ht hl rfl rfl rfl hx hx (by show x.run.bytesMoved + k ≤ _; omega)

/-- A slot that holds its module enters ABORTED with a recorded phase and holds it on (R82, R161, R163). -/
theorem Slot.standsUnless_aborted {y : Slot} (ht : x.takesOutcome = true) (hl : x.lawful) (hh : y.host = x.host)
    (hs : y.state = .aborted) (hp : y.run.recordedPhase = x.run.recordedPhase)
    (hb : y.run.bytesMoved = x.run.bytesMoved) (hi : x.quiet → y.inFlight = none) : x.standsUnless False y := by
  obtain ⟨husable, hphase, -, hopening, hmoved⟩ := (Slot.lawful_taking_iff ht).mp hl
  obtain ⟨hholds, hqueued, hfree⟩ := Slot.holds_of_takesOutcome ht
  have hy : y.holds = true := by simp [Slot.holds, hs, hp, hphase]
  exact {
    host := hh
    free := iff_of_false (by rw [hs]; simp) hfree
    holds := by simp [hy, hholds]
    queued := by simp [hs, hqueued]
    quiet := fun hq => ⟨hi hq, by rw [hs]; simp⟩
    lawful := Slot.lawful_aborted hs (hh ▸ husable) (by rw [hp, hb]; exact hl.notMoved)
      (by rw [hp, hb, hh]; exact hmoved) }

end

/-! ### An ending at the module (R158) -/

/-- The module of a slot that ends is named by that slot no more. -/
theorem ModuleRecord.namesUnless_settleHolder {n : Fin 8} (c : Condition) (tag : Half) {m : ModuleRecord}
    (hh : m.holder = .slot n) (hw : n ∉ m.waiting) : m.namesUnless (fun j => j = n) (settleHolder n c tag m) := by
  have hkept : (∀ j, (settleHolder n c tag m).holder ≠ .slot j) ∧ (settleHolder n c tag m).waiting = m.waiting := by
    unfold settleHolder
    split
    · rw [ModuleRecord.releaseForCancel_eq hh]
      exact ⟨by simp, rfl⟩
    · rw [ModuleRecord.release, if_pos hh]
      exact ⟨by simp, rfl⟩
  obtain ⟨hholder, hwaiting⟩ := hkept
  exact {
    holder := fun j => ⟨fun h => absurd h (hholder j), fun h => absurd (Holder.slot.inj (h.1.symm.trans hh)) h.2⟩
    waiting := fun j => by
      rw [hwaiting]
      exact ⟨fun h => ⟨h, fun e => hw (e ▸ h)⟩, And.left⟩
    sublist := by rw [hwaiting] }

theorem finishExchange_moduleAt {n : Fin 8} (c : Condition) {s : State} {k : Fin 30}
    (hk : (s.slotAt n).host.moduleAddr.toNat = moduleAddress k) (j : Fin 30) : (finishExchange n c s).moduleAt j =
      if j = k then settleHolder n c (s.slotAt n).host.tag (s.moduleAt j) else s.moduleAt j := by
  rw [finishExchange_eq]
  exact updModuleOf_moduleAt _ hk j

theorem finishExchange_slotAt (n : Fin 8) (c : Condition) (s : State) (j : Fin 8) : (finishExchange n c s).slotAt j =
    if j = n then (s.slotAt j).atEnd c.endState c else s.slotAt j := by
  have hexch : ∀ f, (s.updModuleOf (s.slotAt n) f).exch = s.exch := fun f => by simp
  rw [finishExchange, enterEnded_slotAt, State.slotAt_congr (hexch _)]

theorem Condition.endState_cases (c : Condition) : c.endState = .done ∨ c.endState = .failed := by
  cases c <;> simp [Condition.endState]

section
variable {s : State} {n : Fin 8} {p : Option (Fin 8)}

/-- A slot that may take an outcome holds its module (R82). -/
theorem State.exchangesStand.held (h : s.exchangesStand) (ht : (s.slotAt n).takesOutcome = true) :
    ∃ k : Fin 30, (s.slotAt n).host.moduleAddr.toNat = moduleAddress k ∧ (s.moduleAt k).holder = .slot n ∧
      n ∉ (s.moduleAt k).waiting := by
  obtain ⟨hholds, hqueued, hfree⟩ := Slot.holds_of_takesOutcome ht
  obtain ⟨k, hk⟩ := h.module_of_slot hfree
  exact ⟨k, hk, (h.holder_iff k n).mpr ⟨hholds, moduleIndex_eq_some.mpr hk⟩,
    fun hn => hqueued ((h.waiting_iff k n).mp hn).1⟩

theorem State.exchangesStand.finishExchange (h : s.exchangesStand) (c : Condition)
    (ht : (s.slotAt n).takesOutcome = true) : s.standsUnless (fun j => j = n) (finishExchange n c s) where
  modules j := by
    obtain ⟨k, hk, hh, hw⟩ := h.held ht
    rw [finishExchange_moduleAt c hk]
    split
    · next hj =>
      rw [hj]
      exact ModuleRecord.namesUnless_settleHolder c _ hh hw
    · next hj => exact h.namesUnless_other hj fun _ hn => Or.inl (hn ▸ hh)
  bindings a := congrArg AreaRecord.binding (State.areaAt_congr (by simp) a)
  fills := h.fills (by simp)
  slots j := by
    rw [finishExchange_slotAt]
    split
    · next hj =>
      subst hj
      exact Slot.standsUnless_atEnd c c.endState_cases (h.lawful j) (Slot.ne_free_of_takesOutcome ht) rfl
    · next hj => exact h.slot_kept hj j

end

/-! ### Each outcome on a settled state -/

namespace State.settledBut

variable {s : State} {n : Fin 8} {p : Option (Fin 8)}

/-- The slot replaced by one that stands as it did. -/
theorem setSlot (h : s.settledBut p) {y : Slot} (hy : (s.slotAt n).standsUnless False y) :
    (s.setSlot n y).settledBut p := h.change (h.1.standsAs_setSlot n hy)

/-- The slot replaced by one with other run-time fields, the phase and the bytes moved as they were. -/
theorem setRun (h : s.settledBut p) {r : SlotRun} (hp : r.recordedPhase = (s.slotAt n).run.recordedPhase)
    (hb : r.bytesMoved = (s.slotAt n).run.bytesMoved) : (s.setSlot n { s.slotAt n with run := r }).settledBut p :=
  h.setSlot (Slot.standsUnless_kept rfl rfl hp hb (Or.inl rfl) id (h.1.lawful n))

theorem finishExchange (h : s.settledBut p) (c : Condition) (ht : (s.slotAt n).takesOutcome = true) :
    (Machine.finishExchange n c s).settledBut p := h.change (h.1.finishExchange c ht)

/-- An ending after the run-time fields were written. -/
theorem finishAfter (h : s.settledBut p) (c : Condition) (ht : (s.slotAt n).takesOutcome = true) {r : SlotRun}
    (hp : r.recordedPhase = (s.slotAt n).run.recordedPhase) (hb : r.bytesMoved = (s.slotAt n).run.bytesMoved) :
    (Machine.finishExchange n c (s.setSlot n { s.slotAt n with run := r })).settledBut p :=
  (h.setRun hp hb).finishExchange c (by rw [State.slotAt_setSlot_same]; exact ht)

/-- An area replaced by one with the same binding and a fill inside its size. -/
theorem setArea (h : s.settledBut p) {t : State} {a : Fin 4} {r : AreaRecord} (hb : r.binding = (s.areaAt a).binding)
    (hf : r.fill ≤ r.size) (ht : t.table = s.table) (hx : t.exch = s.exch) (ha : t.areaAt a = r)
    (ho : otherAreasKept a s t) : t.settledBut p :=
  h.change <| h.1.standsAs_areas ht hx fun b => by
    by_cases hab : b = a
    · rw [hab, ha]
      exact ⟨hb, hf⟩
    · rw [ho b hab]
      exact ⟨rfl, h.1.fill_le b⟩

variable (h : s.settledBut p) (ht : (s.slotAt n).takesOutcome = true)
include h ht

theorem slotError (e : ErrorKind) : (Machine.slotError n e s).settledBut p := by
  rw [slotError_eq]
  split
  · exact h.finishAfter .retries ht rfl rfl
  · exact h.setRun rfl rfl

theorem slotHold : (Machine.slotHold n s).settledBut p := by
  rw [slotHold_eq]
  split
  · exact h.finishAfter .holdExpired ht rfl rfl
  · exact h.setRun rfl rfl

theorem slotRefused (reason : Byte) : (Machine.slotRefused n reason s).settledBut p :=
  h.finishAfter .refused ht rfl rfl

theorem resultReply (bytes : List Byte) : (Machine.resultReply n bytes s).settledBut p := by
  unfold Machine.resultReply
  split
  · exact h.finishAfter _ ht rfl rfl
  · exact h.finishExchange _ ht

theorem openAccepted (hf : SlotRequest.openExchange.fits (s.slotAt n) (s.areaAt (s.slotAt n).host.area)) :
    (Machine.openAccepted n s).settledBut p := by
  rw [openAccepted_eq]
  exact h.setSlot (Slot.standsUnless_opened ht (h.1.lawful n) hf)

theorem putAccepted {e : Nat} {bit : Bool}
    (hf : (SlotRequest.put e bit).fits (s.slotAt n) (s.areaAt (s.slotAt n).host.area)) :
    (Machine.putAccepted n e bit s).settledBut p := by
  obtain ⟨hphase, -, hmoves, hfill⟩ := hf
  have harea := h.setArea (t := s.setArea (s.slotAt n).host.area ((s.areaAt (s.slotAt n).host.area).consume e))
    (r := (s.areaAt (s.slotAt n).host.area).consume e) rfl ((Nat.sub_le _ _).trans (h.1.fill_le _)) rfl rfl
    (State.areaAt_setArea_same s _ _) (State.setArea_otherAreasKept s _ _)
  rw [putAccepted_eq]
  exact harea.setSlot (Slot.standsUnless_afterPut bit ht (h.1.lawful n) hphase hmoves)

theorem dataReply {e : Nat} {bit : Bool} (r : Reply)
    (hf : (SlotRequest.fetch e bit).fits (s.slotAt n) (s.areaAt (s.slotAt n).host.area)) :
    (Machine.dataReply n e bit r s).settledBut p := by
  obtain ⟨hphase, -, hmoves, hroom⟩ := hf
  rw [dataReply_eq]
  split
  · exact h.finishExchange _ ht
  · next hlong =>
    split
    · exact h.slotError ht _
    · obtain ⟨hown, -, hother⟩ := appendToArea_areaAt (s.slotAt n).host.area r.payload s
      have harea := h.setArea (t := appendToArea (s.slotAt n).host.area r.payload s)
        (r := (s.areaAt (s.slotAt n).host.area).grow r.payload.length) rfl
        (by simp only [AreaRecord.grow]; omega) (by simp) (by simp) hown hother
      refine harea.setSlot ?_
      rw [State.slotAt_congr (t := s) (by simp)]
      exact Slot.standsUnless_afterData ht (h.1.lawful n) hphase hmoves (Nat.not_lt.mp hlong)

theorem slotReply {q : SlotRequest} (r : Reply) (hf : q.fits (s.slotAt n) (s.areaAt (s.slotAt n).host.area)) :
    (Machine.slotReply n q r s).settledBut p := by
  unfold Machine.slotReply
  cases r.kind with
  | hold => exact h.slotHold ht
  | refuse => exact h.slotRefused ht _
  | accept => cases q with
    | openExchange => exact h.openAccepted ht hf
    | put e bit => exact h.putAccepted ht hf
    | fetch | close => exact h
  | data => cases q with
    | fetch e bit => exact h.dataReply ht r hf
    | openExchange | put | close => exact h
  | result => cases q with
    | close => exact h.resultReply ht _
    | openExchange | put | fetch => exact h
  | scanReply | ident => exact h

theorem applySlotOutcome {q : SlotRequest} (o : TxnOutcome)
    (hf : q.fits (s.slotAt n) (s.areaAt (s.slotAt n).host.area)) : (Machine.applySlotOutcome n q o s).settledBut p := by
  match o with
  | .reply (some r) => exact h.slotReply ht r hf
  | .timeout | .corrupt | .stray => exact h.slotError ht _
  | .reply none | .echoFault | .abandoned => exact h

end State.settledBut

/-! ### The request removed (R141, R146, R163) -/

namespace State.settledBut

variable {s : State} {n : Fin 8} {p : Option (Fin 8)}

theorem resolveAbort (h : s.settledBut p) : (Machine.resolveAbort n s).settledBut p := by
  unfold Machine.resolveAbort
  split
  · next hp =>
    rw [enterEnded_eq]
    exact h.setSlot (y := (s.slotAt n).atEnd .aborted .none) (Slot.standsUnless_aborted
      ((Slot.takesOutcome_iff _).mpr (Or.inr (Or.inr (Or.inr hp)))) (h.1.lawful n) rfl rfl rfl rfl And.left)
  · exact h

/-- The one request in flight removed, of a slot out of ABORT_PENDING: nothing is pending. -/
theorem requestGone (h : s.settledBut (some n)) (hp : (s.slotAt n).state ≠ .abortPending) :
    (s.setSlot n (s.slotAt n).requestGone).settledBut none := by
  have hgone := h.setSlot (y := (s.slotAt n).requestGone)
    (Slot.standsUnless_kept rfl rfl rfl rfl (Or.inr rfl) id (h.1.lawful n))
  refine ⟨hgone.1, fun j _ => ?_⟩
  by_cases hj : j = n
  · rw [hj, State.slotAt_setSlot_same]
    exact ⟨rfl, hp⟩
  · exact hgone.2 j fun e => hj (Option.some.inj e).symm

end State.settledBut

theorem resolveAbort_state (n : Fin 8) (s : State) : ((resolveAbort n s).slotAt n).state ≠ .abortPending := by
  unfold resolveAbort
  split
  · rw [enterEnded_slotAt, if_pos rfl]
    simp [Slot.atEnd]
  · next h => exact h

/-- The exchange unit takes an outcome but ABANDONED: the agreement stands and nothing is pending (R146, R163). -/
theorem State.settledBut.takeSlotOutcome {s : State} {n : Fin 8} {q : SlotRequest} {o : TxnOutcome}
    (h : s.settledBut (some n)) (hq : (s.slotAt n).inFlight = some q) (ho : o ≠ .abandoned)
    (hf : (s.slotAt n).takesOutcome = true → q.fits (s.slotAt n) (s.areaAt (s.slotAt n).host.area)) :
    (Machine.takeSlotOutcome n o s).settledBut none := by
  cases ht : (s.slotAt n).takesOutcome with
  | false =>
    rw [takeSlotOutcome_ended o (by rw [hq]; simp) ht]
    exact h.requestGone fun hp => by simp [Slot.takesOutcome, hp] at ht
  | true =>
    have htaken : Machine.takeSlotOutcome n o s = (Machine.resolveAbort n (Machine.applySlotOutcome n q o s)).updSlot n
        Slot.requestGone := by
      simp only [Machine.takeSlotOutcome, hq, ht, Bool.true_and, bne_iff_ne.mpr ho, if_true]
      rfl
    rw [htaken]
    exact ((h.applySlotOutcome ht o (hf ht)).resolveAbort (n := n)).requestGone (resolveAbort_state n _)

end Sys2Proof.Machine
end

section
/-! SUPPORT. The agreement with a transaction in flight: whose request it is, what its routing leaves, and the entries
out of service. -/

namespace Sys2Proof.Machine

/-! ### Whose request is in flight (R141) -/

/-- The one request in flight is slot `n`'s request `q`, carried by transaction `t`. -/
structure State.carries (t : Txn) (n : Fin 8) (q : SlotRequest) (s : State) : Prop where
  settled : s.settledBut (some n)
  inFlight : (s.slotAt n).inFlight = some q
  takes : (s.slotAt n).takesOutcome = true
  fits : q.fits (s.slotAt n) (s.areaAt (s.slotAt n).host.area)
  forSlot : s.sched.forSlot = some n
  kind : t.kind = q.kind
  module : (s.slotAt n).module = moduleIndex t.address

theorem SlotRequest.kind_cases (q : SlotRequest) :
    q.kind = .openExchange ∨ q.kind = .put ∨ q.kind = .fetch ∨ q.kind = .close := by
  cases q <;> simp [SlotRequest.kind]

section
variable {s : State}

/-- With no transaction in flight nothing is pending. -/
theorem State.exchangesLawful.settled (h : s.exchangesLawful) (ht : s.line.txn = none) : s.settledBut none := by
  obtain ⟨hstand, hrequests⟩ := s.exchangesLawful_iff.mp h
  refine ⟨hstand, fun n _ => ?_⟩
  obtain ⟨hinFlight, hpending⟩ := hrequests n
  have hnone : (s.slotAt n).inFlight = none := by
    by_contra hq
    obtain ⟨q, hq⟩ := Option.ne_none_iff_exists'.mp hq
    obtain ⟨-, -, -, t, htxn, -⟩ := hinFlight q hq
    rw [ht] at htxn
    cases htxn
  exact ⟨hnone, fun hp => hpending hp hnone⟩

/-- With a transaction in flight nothing is pending, or it carries the one request in flight. -/
theorem State.exchangesLawful.carries_cases (h : s.exchangesLawful) {t : Txn} (ht : s.line.txn = some t) :
    s.settledBut none ∨ ∃ n q, s.carries t n q := by
  obtain ⟨hstand, hrequests⟩ := s.exchangesLawful_iff.mp h
  have hquiet : ∀ j, (s.slotAt j).inFlight = none → (s.slotAt j).quiet := fun j hj =>
    ⟨hj, fun hp => (hrequests j).2 hp hj⟩
  by_cases hall : ∀ j, (s.slotAt j).inFlight = none
  · exact Or.inl ⟨hstand, fun j _ => hquiet j (hall j)⟩
  · obtain ⟨n, hn⟩ := not_forall.mp hall
    obtain ⟨q, hq⟩ := Option.ne_none_iff_exists'.mp hn
    obtain ⟨htakes, hfits, hfor, u, hu, hkind, hmodule⟩ := (hrequests n).1 q hq
    obtain rfl : t = u := Option.some.inj (ht.symm.trans hu)
    refine Or.inr ⟨n, q, ⟨hstand, fun j hj => hquiet j ?_⟩, hq, htakes, hfits, hfor, hkind, hmodule⟩
    by_contra hjn
    obtain ⟨r, hr⟩ := Option.ne_none_iff_exists'.mp hjn
    obtain ⟨-, -, hforj, -⟩ := (hrequests j).1 r hr
    exact hj (hfor.symm.trans hforj)

end

/-! ### Routing (R58) -/

/-- What failure counting does to a slot: nothing, or an ending with MODULE_LOST. -/
theorem countOutcome_slotAt_cases (k : Fin 30) (o : TxnOutcome) (s : State) (j : Fin 8) :
    (countOutcome k o s).slotAt j = s.slotAt j ∨
    (countOutcome k o s).slotAt j = (s.slotAt j).atEnd .failed .moduleLost := by
  rcases countOutcome_cases k o s with e | ⟨m, -, -, e⟩ | ⟨c, e⟩ <;> rw [e]
  · exact Or.inl rfl
  · exact Or.inl rfl
  · rw [enterLost_slotAt]
    split
    · exact Or.inr rfl
    · exact Or.inl rfl

section
variable {s : State} {t : Txn}

/-- Routing where nothing is pending. -/
theorem State.settledBut.routeOutcome (h : s.settledBut none) (t : Txn) (o : TxnOutcome) :
    (Machine.routeOutcome t o s).settledBut none := by
  have hslot : ∀ k, (routeSlot k o s).settledBut none := fun k => by
    have hcounted := h.countOutcome k o
    unfold routeSlot
    split
    · next n hn =>
      have hnone : ((Machine.countOutcome k o s).slotAt n).inFlight = none := (hcounted.2 n (by simp)).1
      simp only [Machine.takeSlotOutcome, hnone]
      exact hcounted
    · exact hcounted
  unfold Machine.routeOutcome
  split
  · next k hk =>
    cases t.kind with
    | mark => exact h
    | scan => exact h.takeScan k o
    | probe => exact h.takeProbe k o
    | cancel => exact h.takeCancel k o
    | openExchange | put | fetch | close => exact hslot k
  · exact h

/-- The routing of a carried request's outcome is the slot's own (R58, R60). -/
theorem State.carries.routeOutcome_eq {n : Fin 8} {q : SlotRequest} (h : s.carries t n q) (o : TxnOutcome) :
    ∃ k, routeOutcome t o s = { takeSlotOutcome n o (countOutcome k o s) with
      sched := { (takeSlotOutcome n o (countOutcome k o s)).sched with forSlot := none } } := by
  obtain ⟨k, hk⟩ := h.settled.1.module_of_slot (Slot.ne_free_of_takesOutcome h.takes)
  have haddress : t.address = moduleAddress k :=
    moduleIndex_eq_some.mp (h.module.symm.trans (moduleIndex_eq_some.mpr hk))
  exact ⟨k, by rw [routeOutcome_module o s haddress, h.kind, routeTo_slot k o q.kind_cases h.forSlot]⟩

/-- The routing of a carried request's outcome: nothing is pending any more (R141, R146). -/
theorem State.carries.routeOutcome {n : Fin 8} {q : SlotRequest} (h : s.carries t n q) {o : TxnOutcome}
    (ho : o ≠ .abandoned) : (Machine.routeOutcome t o s).settledBut none := by
  obtain ⟨k, he⟩ := h.routeOutcome_eq o
  rw [he]
  show (Machine.takeSlotOutcome n o (Machine.countOutcome k o s)).settledBut none
  have hareas : (Machine.countOutcome k o s).areas = s.areas := by simp
  have hcounted := h.settled.countOutcome k o
  rcases countOutcome_slotAt_cases k o s n with hn | hn
  · refine hcounted.takeSlotOutcome (by rw [hn]; exact h.inFlight) ho fun _ => ?_
    rw [hn, State.areaAt_congr hareas]
    exact h.fits
  · refine hcounted.takeSlotOutcome (by rw [hn]; exact h.inFlight) ho fun ht => ?_
    rw [hn] at ht
    cases ht

/-- The request of a transaction that was cut is removed and nothing else (R141, R146). -/
theorem State.carries.routeAbandoned {n : Fin 8} {q : SlotRequest} (h : s.carries t n q) :
    (Machine.routeOutcome t .abandoned s).exchangesStand ∧
    ∀ j, ((Machine.routeOutcome t .abandoned s).slotAt j).inFlight = none := by
  obtain ⟨k, he⟩ := h.routeOutcome_eq .abandoned
  have hgone : Machine.takeSlotOutcome n .abandoned s = s.setSlot n (s.slotAt n).requestGone := by
    simp only [Machine.takeSlotOutcome, h.inFlight, bne_self_eq_false, Bool.and_false, Bool.false_eq_true, if_false]
    rfl
  have hstand := h.settled.setSlot (y := (s.slotAt n).requestGone)
    (Slot.standsUnless_kept rfl rfl rfl rfl (Or.inr rfl) id (h.settled.1.lawful n))
  rw [he, countOutcome_unchanged (Or.inr (Or.inr rfl)), hgone]
  refine ⟨hstand.1, fun j => ?_⟩
  show ((s.setSlot n (s.slotAt n).requestGone).slotAt j).inFlight = none
  by_cases hj : j = n
  · rw [hj, State.slotAt_setSlot_same]
    rfl
  · exact (hstand.2 j fun e => hj (Option.some.inj e).symm).1

end

/-! ### The end of a transaction and the entries out of service -/

section
variable {s u : State} {t : Txn}

/-- The state before an event of the line: as `s`, but for line, link, timer, images and notices. -/
def State.alike (s u : State) : Prop :=
  u.table = s.table ∧ u.exch = s.exch ∧ u.areas = s.areas ∧ u.sched.forSlot = s.sched.forSlot

theorem State.exchangesStand.alike (h : s.exchangesStand) (hu : s.alike u) : u.exchangesStand := by
  obtain ⟨htable, hexch, hareas, -⟩ := hu
  exact h.change (h.standsAs (fun k => by
    rw [State.moduleAt_congr htable]
    exact ModuleRecord.namesUnless_same rfl rfl) hexch hareas)

theorem State.settledBut.alike {p : Option (Fin 8)} (h : s.settledBut p) (hu : s.alike u) : u.settledBut p :=
  ⟨h.1.alike hu, fun j hj => by
    obtain ⟨-, hexch, -⟩ := hu
    rw [State.slotAt_congr hexch]
    exact h.2 j hj⟩

theorem State.carries.alike {n : Fin 8} {q : SlotRequest} (h : s.carries t n q) (hu : s.alike u) :
    u.carries t n q := by
  obtain ⟨-, hexch, hareas, hfor⟩ := id hu
  obtain ⟨hsettled, hinFlight, htakes, hfits, hforSlot, hkind, hmodule⟩ := h
  have hslot := State.slotAt_congr hexch n
  exact ⟨hsettled.alike hu, by rw [hslot]; exact hinFlight, by rw [hslot]; exact htakes,
    by rw [hslot, State.areaAt_congr hareas]; exact hfits, hfor.trans hforSlot, hkind, by rw [hslot]; exact hmodule⟩

/-- A transaction ended and routed: nothing is pending (R17, R58). -/
theorem State.exchangesLawful.routed (h : s.exchangesLawful) (ht : s.line.txn = some t) (hu : s.alike u)
    {o : TxnOutcome} (ho : o ≠ .abandoned) : (routeOutcome t o u).settledBut none := by
  rcases h.carries_cases ht with hsettled | ⟨n, q, hcarries⟩
  · exact (hsettled.alike hu).routeOutcome t o
  · exact (hcarries.alike hu).routeOutcome ho

/-- A transaction cut by SHUTDOWN, if one was in flight: no request is (R18, R34). -/
theorem State.exchangesLawful.cutTxn (h : s.exchangesLawful) :
    (cutTxn s).exchangesStand ∧ ∀ j, ((cutTxn s).slotAt j).inFlight = none := by
  unfold Machine.cutTxn
  split
  · next t ht =>
    have hu : s.alike { s with line := { s.line with txn := none, lde := false, ltx := .idle } } :=
      ⟨rfl, rfl, rfl, rfl⟩
    rcases h.carries_cases ht with hsettled | ⟨n, q, hcarries⟩
    · have hrouted := (hsettled.alike hu).routeOutcome t .abandoned
      exact ⟨hrouted.1, fun j => (hrouted.2 j (by simp)).1⟩
    · exact (hcarries.alike hu).routeAbandoned
  · next ht =>
    have hsettled := h.settled ht
    exact ⟨hsettled.1, fun j => (hsettled.2 j (by simp)).1⟩

/-- The entry into FAULT with nothing pending (R35, R126). -/
theorem State.settledBut.enterFault (h : s.settledBut none) (c : LinkCause) : (enterFault c s).settledBut none :=
  State.exchangesStand.settled_linkDownStep (s := changeLink .fault c (releasePair s)) h.1
    (fun j => (h.2 j (by simp)).1) .linkFault

/-- The entry into OFF with no request in flight (R33, R126). -/
theorem State.exchangesStand.enterOff (h : s.exchangesStand) (hi : ∀ j, (s.slotAt j).inFlight = none) :
    (enterOff s).settledBut none := by
  rw [enterOff_eq]
  exact State.exchangesStand.settled_linkDownStep (s := { s with
    line := { s.line with lde := false, ltx := .idle, echoFaults := 0 }
    link := { s.link with state := .off, lastOld := s.link.state, lastNew := .off, lastCause := .command }
    notices := (s.notices.offer s.sched.cycleCounter (.linkState s.link.state .off .command)).raise .linkChange })
    h hi .linkDown

end

end Sys2Proof.Machine
end

section
/-! SUPPORT. One slot that moves between the tables, and the pick of a slot from its waiting list. -/

namespace Sys2Proof.Machine

/-! ### One slot moves -/

/-- A change that concerns slot `n` alone: every other slot stands, the tables and the areas tell it as before, and slot
`n` agrees with them after it. -/
structure State.moves (n : Fin 8) (s t : State) : Prop where
  others : otherSlotsKept n s t
  holders : ∀ k j, j ≠ n → ((t.moduleAt k).holder = .slot j ↔ (s.moduleAt k).holder = .slot j)
  waiting : ∀ k j, j ≠ n → (j ∈ (t.moduleAt k).waiting ↔ j ∈ (s.moduleAt k).waiting)
  nodup : ∀ k, (t.moduleAt k).waiting.Nodup
  bindings : ∀ a j d, j ≠ n → ((t.areaAt a).binding = some { slot := j, direction := d } ↔
    (s.areaAt a).binding = some { slot := j, direction := d })
  fills : t.fillsInside
  own : t.slotAgrees n

section
variable {s t : State} {n : Fin 8}

theorem State.exchangesStand.move (h : s.exchangesStand) (hm : s.moves n t) : t.exchangesStand := by
  refine ⟨fun j => ?_, hm.nodup, hm.fills⟩
  by_cases hj : j = n
  · rw [hj]
    exact hm.own
  · obtain ⟨hholder, hwaiting, hbinding, hlawful⟩ := h.1 j
    unfold State.slotAgrees
    rw [hm.others j hj]
    exact ⟨fun k => (hm.holders k j hj).trans (hholder k), fun k => (hm.waiting k j hj).trans (hwaiting k),
      fun a d => (hm.bindings a j d hj).trans (hbinding a d), hlawful⟩

/-- Where nothing was pending, and is not of the slot that moved. -/
theorem State.settledBut.move (h : s.settledBut none) (hm : s.moves n t) (hn : (t.slotAt n).quiet) :
    t.settledBut none := by
  refine ⟨h.1.move hm, fun j hj => ?_⟩
  by_cases hjn : j = n
  · rw [hjn]
    exact hn
  · rw [hm.others j hjn]
    exact h.2 j hj

/-- A waiting slot that is the head of its list, at a module that no slot holds, claims it (R82, R119). -/
theorem State.exchangesStand.moves_pickFromQueued (h : s.exchangesStand) {k : Fin 30}
    (hk : (s.slotAt n).host.moduleAddr.toNat = moduleAddress k) (hq : (s.slotAt n).state = .queued)
    (hhead : (s.moduleAt k).waiting.head? = some n) (hfree : (s.moduleAt k).holder = .none) :
    s.moves n (pickFromQueued n s) := by
  obtain ⟨tail, hlist⟩ := List.head?_eq_some_iff.mp hhead
  have hnodup := h.nodup k
  rw [hlist, List.nodup_cons] at hnodup
  have hareas : (pickFromQueued n s).areas = s.areas := by simp
  have hclaim : (s.moduleAt k).claim n = { s.moduleAt k with waiting := tail, holder := .slot n } := by
    rw [ModuleRecord.claim, hlist]
    rfl
  have hmodule : (s.slotAt n).module = some k := moduleIndex_eq_some.mpr hk
  have hlawful := h.lawful n
  have hslot : (pickFromQueued n s).slotAt n =
      { s.slotAt n with state := .opening, run := { (s.slotAt n).run with recordedPhase := .opening } } := by
    rw [pickFromQueued_slotAt, if_pos rfl]
  refine ⟨fun j hj => by rw [pickFromQueued_slotAt, if_neg hj], fun i j hj => ?_, fun i j hj => ?_, fun i => ?_,
    fun a j d _ => by rw [State.areaAt_congr hareas], h.fills hareas, fun i => ?_, fun i => ?_, fun a d => ?_, ?_⟩
  · rw [pickFromQueued_moduleAt hk]
    split
    · next hi =>
      rw [hi, hclaim, hfree]
      exact iff_of_false (fun e => hj (Holder.slot.inj e).symm) (by simp)
    · rfl
  · rw [pickFromQueued_moduleAt hk]
    split
    · next hi =>
      rw [hi, hclaim, hlist]
      simp [hj]
    · rfl
  · rw [pickFromQueued_moduleAt hk]
    split
    · next hi =>
      rw [hi, hclaim]
      exact hnodup.2
    · exact h.nodup i
  · rw [pickFromQueued_moduleAt hk, hslot]
    show _ ↔ true = true ∧ (s.slotAt n).module = some i
    rw [hmodule]
    split
    · next hi =>
      rw [hi, hclaim]
      simp
    · next hi =>
      rw [h.holder_iff, Slot.holds, hq]
      simp [Ne.symm hi]
  · rw [pickFromQueued_moduleAt hk, hslot]
    refine iff_of_false ?_ (fun e => by cases e.1)
    split
    · next hi =>
      rw [hi, hclaim]
      exact hnodup.1
    · next hi =>
      rw [h.waiting_iff, hmodule]
      exact fun e => hi (Option.some.inj e.2).symm
  · rw [State.areaAt_congr hareas, hslot, h.binding_iff, hq]
    simp
  · rw [hslot]
    have husable := hlawful.usable (by rw [hq]; simp)
    have hnone : (s.slotAt n).run.recordedPhase = .none := by
      obtain ⟨-, -, hphase, -⟩ := hlawful
      exact hphase (Or.inr hq)
    exact (Slot.lawful_taking_iff rfl).mpr ⟨husable, by simp, fun _ => rfl, fun _ => hlawful.notMoved (Or.inl hnone),
      fun e => by cases e⟩

end

end Sys2Proof.Machine
end

section
/-! SUPPORT. The start of a slot's transaction, the cycle and the scheduler's decisions, and what they leave of the
agreement. -/

namespace Sys2Proof.Machine

/-! ### The start of a slot's transaction -/

section
variable {s t : State} {n : Fin 8}

/-- The agreement of slots and tables does not look at the requests in flight. -/
theorem State.exchangesStand.withRequests (h : s.exchangesStand) (ht : t.table = s.table) (ha : t.areas = s.areas)
    (hx : ∀ j, ∃ i, t.slotAt j = { s.slotAt j with inFlight := i }) : t.exchangesStand := by
  refine ⟨fun j => ?_, fun k => by rw [State.moduleAt_congr ht]; exact h.nodup k, h.fills ha⟩
  obtain ⟨i, hi⟩ := hx j
  have hj := h.1 j
  unfold State.slotAgrees at hj ⊢
  rw [hi]
  simp only [State.moduleAt_congr ht, State.areaAt_congr ha]
  exact hj

theorem State.settledBut.leaveQueue (h : s.settledBut none) (he : slotEligible n s = true) :
    (leaveQueue n s).settledBut none := by
  unfold Machine.leaveQueue
  split
  · next hq =>
    have hqueued : queuedEligible n (s.slotAt n) s = true := by
      simpa [slotEligible, hq] using he
    obtain ⟨k, hk, hhead, -, hfree⟩ := (queuedEligible_iff n _ s).mp hqueued
    refine h.move (h.1.moves_pickFromQueued hk hq hhead hfree) ?_
    rw [pickFromQueued_slotAt, if_pos rfl]
    exact ⟨(h.2 n (by simp)).1, by simp⟩
  · exact h

/-- The effective piece is at most what is still to move (R144). -/
theorem effectivePiece_le (x : Slot) (s : State) : effectivePiece x s ≤ x.host.declared.toNat - x.run.bytesMoved :=
  (min_le_right _ _).trans (min_le_right _ _)

/-- The request of an eligible slot fits it once it has left QUEUED (R141, R144, R145). -/
theorem State.exchangesStand.startSlot_fits (h : s.exchangesStand) (he : slotEligible n s = true) :
    (slotRequestOf (s.slotAt n) s).fits ((startSlot n s).slotAt n) (s.areaAt (s.slotAt n).host.area) ∧
    ((startSlot n s).slotAt n).takesOutcome = true := by
  obtain ⟨-, hphase, -, -, -, hmoved⟩ := h.lawful n
  rw [startSlot_own]
  rcases (slotEligible_iff n s).mp he with ⟨hs, -⟩ | ⟨hs | hs, -⟩ | ⟨hs, -, hgate⟩
  · simp [slotRequestOf, hs, SlotRequest.fits, Slot.takesOutcome, SlotState.inPhase]
  · have hp := hphase (by rw [hs]; rfl)
    simp [slotRequestOf, hs, SlotRequest.fits, Slot.takesOutcome, SlotState.inPhase, hp, SlotState.phase]
  · have hp := hphase (by rw [hs]; rfl)
    simp [slotRequestOf, hs, SlotRequest.fits, Slot.takesOutcome, SlotState.inPhase, hp, SlotState.phase]
  · have hp : (s.slotAt n).run.recordedPhase = .transferring := by rw [hphase (by rw [hs]; rfl), hs]; rfl
    have hlt := hmoved (by simp [Slot.holds, hs]) hp
    have hpiece := effectivePiece_le (s.slotAt n) s
    have hfill := h.fill_le (s.slotAt n).host.area
    refine ⟨?_, by simp [Slot.takesOutcome, hs, SlotState.inPhase]⟩
    unfold gateMet at hgate
    simp only [slotRequestOf, hs]
    cases hd : (s.slotAt n).host.direction with
    | none => simp [hd] at hgate
    | some d =>
      cases d with
      | write =>
        simp only [hd, decide_eq_true_eq] at hgate
        simp only [if_true, SlotRequest.fits]
        exact ⟨by simpa using hp, hd, by omega, hgate⟩
      | read =>
        simp only [hd, decide_eq_true_eq] at hgate
        unfold AreaRecord.room at hgate
        rw [if_neg (by simp)]
        exact ⟨by simpa using hp, hd, by simp only []; omega, by omega⟩

theorem slotTxn_kind (n : Fin 8) (x : Slot) (q : SlotRequest) (s : State) : (slotTxn n x q s).txn.kind = q.kind := by
  cases q <;> rfl

/-- An eligible slot starts its transaction: the agreement stands, with its request in flight (R141). -/
theorem State.settledBut.startSlot (h : s.settledBut none) (he : slotEligible n s = true) :
    (startSlot n s).exchangesLawful := by
  have hleft := h.leaveQueue he
  have hslots : ∀ j, ∃ i, (Machine.startSlot n s).slotAt j =
      { (Machine.leaveQueue n s).slotAt j with inFlight := i } := fun j => by
      rw [startSlot_slotAt]
      split
      · exact ⟨_, rfl⟩
      · exact ⟨((Machine.leaveQueue n s).slotAt j).inFlight, rfl⟩
  have hareas : (Machine.startSlot n s).areas = s.areas := by simp
  have hstand := hleft.1.withRequests (startSlot_table n s) (by rw [hareas]; simp) hslots
  refine (State.exchangesLawful_iff _).mpr ⟨hstand, fun j => ?_⟩
  by_cases hj : j = n
  · obtain ⟨hfits, htakes⟩ := h.1.startSlot_fits he
    rw [hj]
    refine ⟨fun q hq => ?_, fun _ => by rw [startSlot_own]; simp⟩
    have hown : q = slotRequestOf (s.slotAt n) s := by
      rw [startSlot_own] at hq
      exact (Option.some.inj hq).symm
    have hhost : ((Machine.startSlot n s).slotAt n).host = (s.slotAt n).host := by rw [startSlot_own]
    refine ⟨htakes, by rw [hown, hhost, State.areaAt_congr hareas]; exact hfits, by rw [startSlot_sched],
      _, by rw [startSlot_line], by rw [hown]; exact slotTxn_kind _ _ _ _, ?_⟩
    rw [Slot.module, hhost]
    rfl
  · refine State.requestAgrees_of_quiet ?_
    rw [startSlot_other s hj]
    exact h.2 j (by simp)

end

/-! ### The cycle -/

namespace State.settledBut

variable {s t : State} {p : Option (Fin 8)}

/-- The slots change in their marks alone; the tables are as before. -/
theorem marks (h : s.settledBut p) (ht : t.table = s.table) (ha : t.areas = s.areas)
    (hx : ∀ j, ∃ w d, t.slotAt j =
      { s.slotAt j with run := { (s.slotAt j).run with waitArea := w, deferred := d } }) :
    t.settledBut p :=
  h.change <| h.1.standsAs_slots ht ha fun j => by
    obtain ⟨w, d, hj⟩ := hx j
    rw [hj]
    exact Slot.standsUnless_kept rfl rfl rfl rfl (Or.inl rfl) id (h.1.lawful j)

theorem cycleEnd (h : s.settledBut p) (status : CycleStatus) (cut : Nat) :
    (Machine.cycleEnd status cut s).settledBut p := by
  obtain ⟨-, -, -, hexch, hareas, -⟩ := cycleEnd_frame status cut s
  exact h.change (h.1.standsAs (fun k => by
    rw [cycleEnd_moduleAt]
    exact ModuleRecord.namesUnless_same rfl rfl) hexch hareas)

theorem cycleStart (h : s.settledBut p) (late : Bool) : (Machine.cycleStart late s).settledBut p := by
  obtain ⟨-, -, htable, hareas, -⟩ := cycleStart_frame late s
  exact h.marks htable hareas fun j => ⟨(s.slotAt j).run.waitArea, false, cycleStart_slotAt late s j⟩

theorem overrunCut (h : s.settledBut p) (late : Bool) : (Machine.overrunCut late s).settledBut p :=
  (h.cycleEnd _ _).cycleStart late

theorem probeStage (h : s.settledBut p) : (Machine.probeStage s).settledBut p := by
  unfold Machine.probeStage
  split
  · split <;> exact h
  · exact h

theorem searchSlots (h : s.settledBut p) (l : List (Fin 8)) : (Machine.searchSlots l s).1.settledBut p := by
  obtain ⟨-, -, -, -, htable, -, hareas, -⟩ := searchSlots_frame l s
  refine h.marks htable hareas fun j => ?_
  obtain ⟨b, hb⟩ := searchSlots_slotAt l s j
  exact ⟨b, (s.slotAt j).run.deferred, hb⟩

theorem stoppedCycleEnd (h : s.settledBut p) : (Machine.stoppedCycleEnd s).settledBut p := by
  rw [stoppedCycleEnd_eq]
  split
  · exact h.cycleEnd _ _
  · exact h

/-- The slots in a phase aborted between transactions hold their modules on (R168). -/
theorem abortSlots (h : s.settledBut p) (l : List (Fin 8)) : (Machine.abortSlots l s).settledBut p := by
  obtain ⟨-, -, -, -, htable, -, hareas, -⟩ := abortSlots_frame l s
  refine h.change (h.1.standsAs_slots htable hareas fun j => ?_)
  rw [abortSlots_slotAt]
  split
  · next hj =>
    have hlawful := h.1.lawful j
    obtain ⟨-, hphase, -⟩ := id hlawful
    exact Slot.standsUnless_aborted (Slot.takesOutcome_of_inPhase hj.2) hlawful rfl rfl (hphase hj.2).symm rfl
      And.left
  · exact h.1.slot_kept id j

theorem stopDone (h : s.settledBut p) : (Machine.stopDone s).settledBut p := by
  have hended := stoppedCycleEnd (s := changeLink .idle .stopDone (drivePair s)) h
  exact abortSlots (s := { Machine.stoppedCycleEnd (changeLink .idle .stopDone (drivePair s)) with
    sched := { (Machine.stoppedCycleEnd (changeLink .idle .stopDone (drivePair s))).sched with
      timer := .stopped, stage := .none } }) hended allSlots

/-! ### The scheduler's decisions -/

theorem acyclicPick (h : s.settledBut none) : (Machine.acyclicPick s).exchangesLawful := by
  unfold Machine.acyclicPick
  split
  · split
    · exact lawful h
    · exact h.probeStage.lawful
  · have hsearched := h.searchSlots (slotOrder s.sched.rrPtr)
    split
    · next u n hu =>
      rw [hu] at hsearched
      split
      · exact hsearched.startSlot (searchSlots_found hu)
      · exact hsearched.probeStage.lawful
    · next u hu =>
      rw [hu] at hsearched
      exact hsearched.probeStage.lawful

theorem walk (h : s.settledBut none) : (Machine.walk s).exchangesLawful := by
  unfold Machine.walk
  split
  · exact lawful h
  · exact acyclicPick (h.cycleEnd (s := { s with sched := { s.sched with scanPos := s.sched.scanLength.toNat } }) _ _)

theorem nextDecision (h : s.settledBut none) : (Machine.nextDecision s).exchangesLawful := by
  have hscan : (enterScan s).settledBut none := h
  unfold Machine.nextDecision
  dsimp only
  split
  · split
    · exact (hscan.overrunCut true).lawful
    · exact hscan.walk
  · split
    · exact (h.overrunCut true).lawful
    · exact h.walk
  · split
    · exact (h.cycleStart true).lawful
    · exact h.acyclicPick
  · split
    · exact (h.cycleStart true).lawful
    · exact lawful h
  · split
    · exact (h.cycleStart true).lawful
    · exact h.lawful
  · exact h.lawful

theorem decideInOrder (h : s.settledBut none) (order : EndOrder) :
    (Machine.decideInOrder order s).exchangesLawful := by
  rcases decideInOrder_cases order s with e | ⟨-, ⟨-, e⟩ | ⟨-, e⟩⟩ <;> rw [e]
  · exact h.nextDecision
  · exact lawful (s := enterScan s) h
  · exact h.lawful

theorem afterExpiry (h : s.settledBut none) : (Machine.afterExpiry s).exchangesLawful := by
  unfold Machine.afterExpiry
  split
  · split
    · exact h.lawful
    · split
      · exact (h.overrunCut false).lawful
      · exact (h.overrunCut false).lawful
      · exact (h.cycleStart false).lawful
      · exact (h.cycleStart false).lawful
      · exact (h.cycleStart false).lawful
      · exact h.lawful
  all_goals exact h.lawful

theorem afterOutcome (h : s.settledBut none) (o : TxnOutcome) (order : EndOrder) :
    (Machine.afterOutcome o order s).exchangesLawful := by
  unfold Machine.afterOutcome
  split
  · exact (h.enterFault _).lawful
  · split
    · exact h.decideInOrder order
    · exact h.stopDone.lawful
    all_goals exact h.lawful

end State.settledBut

/-- A transaction ends with an outcome but ABANDONED (R17). -/
theorem State.exchangesLawful.endTxn {s u : State} {t : Txn} (h : s.exchangesLawful) (ht : s.line.txn = some t)
    (hu : s.alike u) {o : TxnOutcome} (ho : o ≠ .abandoned) (order : EndOrder) :
    (Machine.endTxn t o order u).exchangesLawful :=
  (h.routed (u := removeTxn o u) ht hu ho).afterOutcome o order

/-- The timer expires with a transaction in flight: nothing follows yet (R46, R49). -/
theorem afterExpiry_inFlight {s : State} (h : s.line.txn ≠ none) : afterExpiry s = s := by
  unfold afterExpiry
  split
  · rw [if_pos (Option.isSome_iff_ne_none.mpr h)]
  all_goals rfl

end Sys2Proof.Machine
end

section
/-! SUPPORT. The commands on slots and areas, outside the end of a transaction, and what they leave of the agreement. -/

namespace Sys2Proof.Machine

/-! ### The request in flight through a command -/

/-- The transaction in flight stands: its slot, its kind and its address. -/
def State.sendsOn (s t : State) : Prop :=
  t.sched.forSlot = s.sched.forSlot ∧
  ∀ u, s.line.txn = some u → ∃ v, t.line.txn = some v ∧ v.kind = u.kind ∧ v.address = u.address

theorem State.sendsOn_of_eq {s t : State} (hs : t.sched = s.sched) (hl : t.line = s.line) : s.sendsOn t :=
  ⟨by rw [hs], fun u hu => ⟨u, by rw [hl]; exact hu, rfl, rfl⟩⟩

/-- A request fits a slot by its host fields, its phase and its progress, and an area by its fill and size. -/
theorem SlotRequest.fits_congr {q : SlotRequest} {x y : Slot} {r r' : AreaRecord} (hh : y.host = x.host)
    (hp : y.run.recordedPhase = x.run.recordedPhase) (hb : y.run.bytesMoved = x.run.bytesMoved)
    (hf : r'.fill = r.fill) (hs : r'.size = r.size) (h : q.fits x r) : q.fits y r' := by
  unfold SlotRequest.fits at h ⊢
  rw [hh, hp, hb, hf, hs]
  exact h

section
variable {s t : State} {n : Fin 8}

/-- A slot whose request in flight fits on keeps its agreement with the transaction in flight. -/
theorem State.requestAgrees.keep (h : s.requestAgrees n) (hon : s.sendsOn t) (hx : t.slotAt n = s.slotAt n)
    (hfits : ∀ q, (s.slotAt n).inFlight = some q → q.fits (s.slotAt n) (s.areaAt (s.slotAt n).host.area) →
      q.fits (s.slotAt n) (t.areaAt (s.slotAt n).host.area)) : t.requestAgrees n := by
  obtain ⟨hrequest, hpending⟩ := h
  obtain ⟨hfor, hline⟩ := hon
  unfold State.requestAgrees
  rw [hx]
  refine ⟨fun q hq => ?_, hpending⟩
  obtain ⟨htakes, hfit, hslot, u, hu, hkind, hmodule⟩ := hrequest q hq
  obtain ⟨v, hv, hvkind, hvaddress⟩ := hline u hu
  exact ⟨htakes, hfits q hq hfit, hfor.trans hslot, v, hv, hvkind.trans hkind, by rw [hvaddress]; exact hmodule⟩

/-- A slot that may take no outcome has no request in flight and no abort pending. -/
theorem State.requestAgrees.quiet (h : s.requestAgrees n) (ht : (s.slotAt n).takesOutcome = false) :
    (s.slotAt n).quiet := by
  refine ⟨?_, fun hp => by simp [Slot.takesOutcome, hp] at ht⟩
  by_contra hq
  obtain ⟨q, hq⟩ := Option.ne_none_iff_exists'.mp hq
  have htakes := (h.1 q hq).1
  rw [ht] at htakes
  cases htakes

theorem State.exchangesLawful.stands (h : s.exchangesLawful) : s.exchangesStand := (s.exchangesLawful_iff.mp h).1

theorem State.exchangesLawful.request (h : s.exchangesLawful) (n : Fin 8) : s.requestAgrees n :=
  (s.exchangesLawful_iff.mp h).2 n

/-- The agreement after a change of modules, link, line and scheduler that names what it named. -/
theorem State.exchangesLawful.congr (h : s.exchangesLawful)
    (hm : ∀ k, (t.moduleAt k).holder = (s.moduleAt k).holder ∧ (t.moduleAt k).waiting = (s.moduleAt k).waiting)
    (hx : ∀ j, t.slotAt j = s.slotAt j) (ha : ∀ a, t.areaAt a = s.areaAt a) (hon : s.sendsOn t) :
    t.exchangesLawful := by
  have hstand : t.exchangesStand := h.stands.change {
    modules := fun k => ModuleRecord.namesUnless_same (hm k).1 (hm k).2
    bindings := fun a => by rw [ha]
    fills := fun a => by rw [ha]; exact h.stands.fill_le a
    slots := fun j => by rw [hx]; exact h.stands.slot_kept id j }
  exact t.exchangesLawful_iff.mpr ⟨hstand, fun j => (h.request j).keep hon (hx j) fun q _ hfit => by
    rw [ha]
    exact hfit⟩

/-- The agreement after a change of one slot and its tables, with the fills as they were. -/
theorem State.exchangesLawful.slotChanged (h : s.exchangesLawful) (ht : t.exchangesStand) (ho : otherSlotsKept n s t)
    (hon : s.sendsOn t) (ha : ∀ a, (t.areaAt a).fill = (s.areaAt a).fill ∧ (t.areaAt a).size = (s.areaAt a).size)
    (hn : t.requestAgrees n) : t.exchangesLawful := by
  refine t.exchangesLawful_iff.mpr ⟨ht, fun j => ?_⟩
  by_cases hj : j = n
  · rw [hj]
    exact hn
  · exact (h.request j).keep hon (ho j hj) fun q _ => SlotRequest.fits_congr rfl rfl rfl (ha _).1 (ha _).2

/-! ### The queue (R118, R121, R166) -/

/-- `u` is `s` with slot `n`, which no table names, made ready to be queued: no phase, nothing moved, its area bound. -/
structure State.readied (n : Fin 8) (s u : State) : Prop where
  table : u.table = s.table
  others : otherSlotsKept n s u
  host : (u.slotAt n).host = (s.slotAt n).host
  phase : (u.slotAt n).run.recordedPhase = .none
  moved : (u.slotAt n).run.bytesMoved = 0
  inFlight : (u.slotAt n).inFlight = (s.slotAt n).inFlight
  usable : (s.slotAt n).host.usable = true
  unheld : (s.slotAt n).holds = false
  unqueued : (s.slotAt n).state ≠ .queued
  own : ∀ a d, (u.areaAt a).binding = some { slot := n, direction := d } ↔
    (s.slotAt n).host.area = a ∧ (s.slotAt n).host.direction = some d
  bindings : ∀ a j d, j ≠ n → ((u.areaAt a).binding = some { slot := j, direction := d } ↔
    (s.areaAt a).binding = some { slot := j, direction := d })
  areas : ∀ a, (u.areaAt a).fill = (s.areaAt a).fill ∧ (u.areaAt a).size = (s.areaAt a).size

theorem State.exchangesStand.moves_enqueueSlot {u : State} (h : s.exchangesStand) (hu : s.readied n u) :
    s.moves n (enqueueSlot n u) := by
  obtain ⟨k, hk⟩ := SlotHost.module_of_usable hu.usable
  have hmodule : (s.slotAt n).module = some k := moduleIndex_eq_some.mpr hk
  have hout : ∀ i, n ∉ (s.moduleAt i).waiting := fun i hn => hu.unqueued ((h.waiting_iff i n).mp hn).1
  have hmod : ∀ i, (enqueueSlot n u).moduleAt i =
      if i = k then (s.moduleAt i).append n else s.moduleAt i := fun i => by
    rw [enqueueSlot_moduleAt (by rw [hu.host]; exact hk), State.moduleAt_congr hu.table]
  have hareas : ∀ a, (enqueueSlot n u).areaAt a = u.areaAt a :=
    State.areaAt_congr (by simp)
  have hslot : (enqueueSlot n u).slotAt n = { u.slotAt n with state := .queued } := by
    rw [enqueueSlot_slotAt, if_pos rfl]
  refine ⟨fun j hj => by rw [enqueueSlot_slotAt, if_neg hj, hu.others j hj], fun i j _ => ?_, fun i j hj => ?_,
    fun i => ?_, fun a j d hj => by rw [hareas]; exact hu.bindings a j d hj,
    fun a => by rw [hareas, (hu.areas a).1, (hu.areas a).2]; exact h.fill_le a,
    fun i => ?_, fun i => ?_, fun a d => ?_, ?_⟩
  · rw [hmod]
    split <;> rfl
  · rw [hmod]
    split
    · simp [ModuleRecord.append, hj]
    · rfl
  · rw [hmod]
    split
    · exact List.Nodup.append (h.nodup i) (List.nodup_singleton n) (by simpa using hout i)
    · exact h.nodup i
  · have hkept : ((enqueueSlot n u).moduleAt i).holder = (s.moduleAt i).holder := by
      rw [hmod]
      split <;> rfl
    rw [hkept, h.holder_iff, hu.unheld, hslot]
    exact iff_of_false (fun e => by cases e.1) (fun e => by cases e.1)
  · rw [hslot, hmod]
    show _ ↔ SlotState.queued = .queued ∧ moduleIndex (u.slotAt n).host.moduleAddr.toNat = some i
    rw [hu.host, moduleIndex_eq_some.mpr hk]
    split
    · next hi => simp [ModuleRecord.append, hi]
    · next hi => exact iff_of_false (hout i) fun e => hi (Option.some.inj e.2).symm
  · rw [hareas, hu.own, hslot, hu.host]
    simp
  · rw [hslot]
    exact Slot.lawful_waiting (Or.inr rfl) (fun _ => by rw [hu.host]; exact hu.usable) hu.phase hu.moved

/-- A slot made ready is queued. -/
theorem State.exchangesLawful.enqueueSlot {u : State} (h : s.exchangesLawful) (hu : s.readied n u)
    (hon : s.sendsOn (Machine.enqueueSlot n u)) : (Machine.enqueueSlot n u).exchangesLawful := by
  have hmoves := h.stands.moves_enqueueSlot hu
  refine h.slotChanged (h.stands.move hmoves) hmoves.others hon (fun a => ?_) (State.requestAgrees_of_quiet ?_)
  · rw [State.areaAt_congr (t := u) (by simp)]
    exact hu.areas a
  · have hquiet := (h.request n).quiet (by
      cases ht : (s.slotAt n).takesOutcome with
      | false => rfl
      | true => exact (Slot.holds_of_takesOutcome ht).1.symm.trans hu.unheld)
    rw [enqueueSlot_slotAt, if_pos rfl]
    exact ⟨hu.inFlight.trans hquiet.1, by simp⟩

/-- A slot aborted from QUEUED, DONE or FAILED, with its run-time fields cleared: its area stays bound. -/
theorem State.exchangesStand.readied_updSlot (h : s.exchangesStand) {f : Slot → Slot}
    (hx : (s.slotAt n).restartable = true) (hh : (f (s.slotAt n)).host = (s.slotAt n).host)
    (hp : (f (s.slotAt n)).run.recordedPhase = .none) (hb : (f (s.slotAt n)).run.bytesMoved = 0)
    (hi : (f (s.slotAt n)).inFlight = (s.slotAt n).inFlight) : s.readied n (s.updSlot n f) := by
  have hended : (s.slotAt n).state ≠ .free ∧ (s.slotAt n).holds = false ∧ (s.slotAt n).state ≠ .queued := by
    rcases (Slot.restartable_iff _).mp hx with hs | hs | ⟨hs, hphase⟩
    · simp [Slot.holds, hs]
    · simp [Slot.holds, hs]
    · simp [Slot.holds, hs, hphase]
  obtain ⟨hfree, hholds, hqueued⟩ := hended
  have hslot := State.slotAt_updSlot_same s n f
  exact {
    table := rfl
    others := State.setSlot_otherSlotsKept s n _
    host := by rw [hslot]; exact hh
    phase := by rw [hslot]; exact hp
    moved := by rw [hslot]; exact hb
    inFlight := by rw [hslot]; exact hi
    usable := (h.lawful n).usable hfree
    unheld := hholds
    unqueued := hqueued
    own := fun a d => (h.binding_iff a n d).trans (and_iff_right hfree)
    bindings := fun _ _ _ _ => Iff.rfl
    areas := fun _ => ⟨rfl, rfl⟩ }

theorem bindArea_none {h : SlotHost} (hd : h.direction = none) (n : Fin 8) (s : State) : bindArea n h s = s := by
  simp only [bindArea, hd]

theorem bindArea_some {h : SlotHost} {d : Direction} (hd : h.direction = some d) (n : Fin 8) (s : State) :
    bindArea n h s = s.setArea h.area { s.areaAt h.area with binding := some { slot := n, direction := d } } := by
  simp only [bindArea, hd]

/-- POST of a FREE slot, whose area is unbound where it uses one: the area is bound in the slot's direction (R118). -/
theorem State.exchangesStand.readied_post (h : s.exchangesStand) (hs : (s.slotAt n).state = .free)
    (hu : (s.slotAt n).host.usable = true)
    (hb : (s.slotAt n).host.direction.isSome = true → (s.areaAt (s.slotAt n).host.area).binding = none) :
    s.readied n (bindArea n (s.slotAt n).host (clearRun n s)) := by
  obtain ⟨htable, hslot⟩ := bindArea_kept n s
  have hfresh : ∀ a d, (s.areaAt a).binding ≠ some { slot := n, direction := d } := fun a d e =>
    ((h.binding_iff a n d).mp e).1 hs
  have hexch : (bindArea n (s.slotAt n).host (clearRun n s)).exch = (clearRun n s).exch := by simp
  have hareas : ∀ a, (clearRun n s).areaAt a = s.areaAt a := fun _ => rfl
  have hfields : ((∀ a d, ((bindArea n (s.slotAt n).host (clearRun n s)).areaAt a).binding =
        some { slot := n, direction := d } ↔
          (s.slotAt n).host.area = a ∧ (s.slotAt n).host.direction = some d) ∧
      (∀ a j d, j ≠ n → (((bindArea n (s.slotAt n).host (clearRun n s)).areaAt a).binding =
        some { slot := j, direction := d } ↔ (s.areaAt a).binding = some { slot := j, direction := d })) ∧
      ∀ a, ((bindArea n (s.slotAt n).host (clearRun n s)).areaAt a).fill = (s.areaAt a).fill ∧
        ((bindArea n (s.slotAt n).host (clearRun n s)).areaAt a).size = (s.areaAt a).size) := by
    cases hd : (s.slotAt n).host.direction with
    | none =>
      rw [bindArea_none hd]
      exact ⟨fun a d => iff_of_false (hfresh a d) (fun e => by cases e.2), fun _ _ _ _ => Iff.rfl,
        fun _ => ⟨rfl, rfl⟩⟩
    | some e =>
      have hunbound := hb (by rw [hd]; rfl)
      rw [bindArea_some hd]
      refine ⟨fun a d => ?_, fun a j d hj => ?_, fun a => ?_⟩ <;> rw [State.areaAt_setArea] <;> split
      · next ha => simp [ha]
      · next ha => exact iff_of_false (hfresh a d) fun e => ha e.1.symm
      · next ha =>
        rw [ha, hunbound]
        simp [Ne.symm hj]
      · rfl
      · next ha =>
        rw [ha]
        exact ⟨rfl, rfl⟩
      · exact ⟨rfl, rfl⟩
  obtain ⟨hown, hbindings, hfills⟩ := hfields
  exact {
    table := htable
    others := fun j hj => by rw [State.slotAt_congr hexch, clearRun_slotAt, if_neg hj]
    host := by rw [hslot]
    phase := by rw [hslot]; rfl
    moved := by rw [hslot]; rfl
    inFlight := by rw [hslot]
    usable := hu
    unheld := by simp [Slot.holds, hs]
    unqueued := by simp [hs]
    own := hown
    bindings := hbindings
    areas := hfills }

/-! ### RETIRE (R120) -/

/-- No module has a slot as holder that its retirement lets go (R82, R120). -/
theorem State.exchangesStand.oweCancel_moduleAt_of_ended (h : s.exchangesStand)
    (hx : (s.slotAt n).state.ended = true) (k : Fin 30) :
    ((oweCancel n s).moduleAt k).holder ≠ .slot n ∧ ((oweCancel n s).moduleAt k).waiting = (s.moduleAt k).waiting ∧
    ∀ j, j ≠ n → (((oweCancel n s).moduleAt k).holder = .slot j ↔ (s.moduleAt k).holder = .slot j) := by
  by_cases ho : (s.slotAt n).owesCancel
  · obtain ⟨i, hi⟩ := h.module_of_slot (n := n) (by rw [ho.1]; simp)
    have hholds : (s.slotAt n).holds = true := by simp [Slot.holds, ho.1, ho.2]
    rw [Machine.oweCancel_moduleAt ho hi]
    split
    · next hk =>
      have hheld := (h.holder_iff k n).mpr ⟨hholds, by rw [hk]; exact moduleIndex_eq_some.mpr hi⟩
      rw [ModuleRecord.releaseForCancel_eq hheld, hheld]
      exact ⟨by simp, rfl, fun j hj => by simp [Ne.symm hj]⟩
    · next hk =>
      refine ⟨fun e => hk ?_, rfl, fun _ _ => Iff.rfl⟩
      exact Option.some.inj (((h.holder_iff k n).mp e).2.symm.trans (moduleIndex_eq_some.mpr hi))
  · rw [oweCancel_none ho]
    refine ⟨fun e => ?_, rfl, fun _ _ => Iff.rfl⟩
    have hholds := ((h.holder_iff k n).mp e).1
    unfold Slot.holds at hholds
    cases hs : (s.slotAt n).state <;> simp [hs, SlotState.ended] at hholds hx
    exact ho ⟨hs, hholds⟩

theorem State.exchangesStand.moves_retireSlot (h : s.exchangesStand) (hx : (s.slotAt n).state.ended = true) :
    s.moves n (retireSlot n s) := by
  have hfree : (s.slotAt n).state ≠ .free := fun e => by rw [e] at hx; cases hx
  have hqueued : (s.slotAt n).state ≠ .queued := fun e => by rw [e] at hx; cases hx
  have hmod : ∀ k, (retireSlot n s).moduleAt k = (oweCancel n s).moduleAt k :=
    State.moduleAt_congr (retireSlot_table n s)
  have howed := h.oweCancel_moduleAt_of_ended hx
  have hlist : ∀ k, ((retireSlot n s).moduleAt k).waiting = (s.moduleAt k).waiting := fun k => by
    obtain ⟨-, hkept, -⟩ := howed k
    rw [hmod, hkept]
  have hslot : (retireSlot n s).slotAt n = { s.slotAt n with state := .free, run := SlotRun.cleared } := by
    rw [retireSlot_slotAt, if_pos rfl]
  refine ⟨fun j hj => by rw [retireSlot_slotAt, if_neg hj], fun k j hj => ?_, fun k j _ => ?_, fun k => ?_,
    fun a j d hj => ?_, fun a => ?_, fun k => ?_, fun k => ?_, fun a d => ?_, ?_⟩
  · obtain ⟨-, -, hholders⟩ := howed k
    rw [hmod]
    exact hholders j hj
  · rw [hlist]
  · rw [hlist]
    exact h.nodup k
  · rw [retireSlot_areaAt]
    split
    · next ha =>
      obtain ⟨e, he⟩ := Option.ne_none_iff_exists'.mp ha.1
      have hbound := (h.binding_iff a n e).mpr ⟨hfree, ha.2.symm, he⟩
      rw [hbound]
      simp [Ne.symm hj]
    · rfl
  · rw [retireSlot_areaAt]
    split
    · exact h.fill_le a
    · exact h.fill_le a
  · rw [hmod, hslot]
    exact iff_of_false (howed k).1 (fun e => by cases e.1)
  · rw [hlist, h.waiting_iff, hslot]
    exact iff_of_false (fun e => hqueued e.1) (fun e => by cases e.1)
  · rw [hslot, retireSlot_areaAt]
    refine iff_of_false ?_ (fun e => e.1 rfl)
    split
    · simp
    · next ha =>
      intro e
      obtain ⟨-, harea, hdirection⟩ := (h.binding_iff a n d).mp e
      exact ha ⟨by rw [hdirection]; simp, harea.symm⟩
  · rw [hslot]
    exact Slot.lawful_waiting (Or.inl rfl) (fun e => by cases e) rfl rfl

end

end Sys2Proof.Machine
end

section
/-! SUPPORT. Each command on a slot or an area keeps the agreement. -/

namespace Sys2Proof.Machine

section
variable {s t : State} {n : Fin 8}

/-! ### A change of one slot -/

/-- One slot replaced, and nothing else. -/
theorem State.exchangesLawful.setSlot (h : s.exchangesLawful) {y : Slot}
    (hstand : (s.setSlot n y).exchangesStand) (hn : (s.setSlot n y).requestAgrees n) :
    (s.setSlot n y).exchangesLawful :=
  h.slotChanged hstand (State.setSlot_otherSlotsKept s n y) (State.sendsOn_of_eq rfl rfl) (fun _ => ⟨rfl, rfl⟩) hn

/-- One slot replaced by one that stands as it did, with nothing pending. -/
theorem State.exchangesLawful.setSlot_quiet (h : s.exchangesLawful) {y : Slot}
    (hy : (s.slotAt n).standsUnless False y) (hq : y.quiet) : (s.setSlot n y).exchangesLawful :=
  h.setSlot (h.stands.change (h.stands.standsAs_setSlot n hy))
    (State.requestAgrees_of_quiet (by rw [State.slotAt_setSlot_same]; exact hq))

/-- A FREE slot takes any host fields (R110). -/
theorem State.exchangesLawful.setHost (h : s.exchangesLawful) (hs : (s.slotAt n).state = .free) (x : SlotHost) :
    (s.setSlot n { s.slotAt n with host := x }).exchangesLawful := by
  have hslot := State.slotAt_setSlot_same s n { s.slotAt n with host := x }
  obtain ⟨-, -, hphase, -, hmoved, -⟩ := h.stands.lawful n
  have hnone := hphase (Or.inl hs)
  refine h.setSlot (h.stands.move (n := n) ?_) (State.requestAgrees_of_quiet ?_)
  · refine ⟨State.setSlot_otherSlotsKept s n _, fun _ _ _ => Iff.rfl, fun _ _ _ => Iff.rfl, h.stands.nodup,
      fun _ _ _ _ => Iff.rfl, h.stands.fills rfl, fun k => (h.stands.holder_iff k n).trans ?_,
      fun k => (h.stands.waiting_iff k n).trans ?_,
      fun a d => (h.stands.binding_iff a n d).trans ?_, ?_⟩ <;> rw [hslot]
    · exact iff_of_false (by simp [Slot.holds, hs]) (by simp [Slot.holds, hs])
    · exact iff_of_false (by simp [hs]) (by simp [hs])
    · exact iff_of_false (fun e => e.1 hs) (fun e => e.1 hs)
    · exact Slot.lawful_waiting (Or.inl hs) (fun e => by cases hs.symm.trans e) hnone (hmoved (Or.inl hnone))
  · rw [hslot]
    exact (h.request n).quiet (by simp [Slot.takesOutcome, SlotState.inPhase, hs])

theorem State.exchangesLawful.retireSlot (h : s.exchangesLawful) (hx : (s.slotAt n).state.ended = true) :
    (Machine.retireSlot n s).exchangesLawful := by
  have hmoves := h.stands.moves_retireSlot hx
  obtain ⟨-, hline, -, hsched, -⟩ := retireSlot_frame n s
  refine h.slotChanged (h.stands.move hmoves) hmoves.others (State.sendsOn_of_eq hsched hline) (fun a => ?_)
    (State.requestAgrees_of_quiet ?_)
  · rw [retireSlot_areaAt]
    split <;> exact ⟨rfl, rfl⟩
  · have hquiet := (h.request n).quiet (by
      unfold Slot.takesOutcome
      cases hs : (s.slotAt n).state <;> simp [hs, SlotState.ended, SlotState.inPhase] at hx ⊢)
    rw [retireSlot_slotAt, if_pos rfl]
    exact ⟨hquiet.1, by simp⟩

/-! ### ABORT and RESUME (R160 to R167) -/

theorem abortQueued_moduleAt {k : Fin 30} (hk : (s.slotAt n).host.moduleAddr.toNat = moduleAddress k) (j : Fin 30) :
    (abortQueued n s).moduleAt j = if j = k then (s.moduleAt j).remove n else s.moduleAt j := by
  rw [abortQueued, abortInPhase_moduleAt]
  exact updModuleOf_moduleAt _ hk j

theorem abortQueued_slotAt (n : Fin 8) (s : State) (j : Fin 8) :
    (abortQueued n s).slotAt j = (abortInPhase n s).slotAt j := by
  have hexch : (s.updModuleOf (s.slotAt n) (ModuleRecord.remove n)).exch = s.exch := by simp
  rw [abortQueued, abortInPhase_slotAt, abortInPhase_slotAt, State.slotAt_congr hexch]

/-- A waiting slot that is aborted leaves its list, with no phase (R160). -/
theorem State.exchangesStand.abortQueued (h : s.exchangesStand) (hs : (s.slotAt n).state = .queued) :
    s.standsUnless (fun j => j = n) (abortQueued n s) where
  modules j := by
    obtain ⟨k, hk⟩ := h.module_of_slot (n := n) (by rw [hs]; simp)
    have hheld : ∀ i, (s.moduleAt i).holder ≠ .slot n := fun i e => by
      have hholds := ((h.holder_iff i n).mp e).1
      rw [Slot.holds, hs] at hholds
      cases hholds
    have hwaiting : n ∈ (s.moduleAt k).waiting := (h.waiting_iff k n).mpr ⟨hs, moduleIndex_eq_some.mpr hk⟩
    rw [abortQueued_moduleAt hk]
    split
    · exact {
        holder := fun i => ⟨fun e => ⟨e, fun hi => hheld j (hi ▸ e)⟩, And.left⟩
        waiting := fun i => by simp [ModuleRecord.remove]
        sublist := List.filter_sublist }
    · next hj => exact h.namesUnless_other hj fun i hi => Or.inr (hi ▸ hwaiting)
  bindings a := congrArg AreaRecord.binding (State.areaAt_congr (by simp) a)
  fills := h.fills (by simp)
  slots j := by
    rw [abortQueued_slotAt, abortInPhase_slotAt]
    split
    · next hj =>
      subst hj
      have hlawful := h.lawful j
      obtain ⟨-, -, hphase, -⟩ := id hlawful
      have hmoved := hlawful.notMoved (Or.inl (hphase (Or.inr hs)))
      have husable := hlawful.usable (by rw [hs]; simp)
      exact {
        host := rfl
        free := iff_of_false (by simp) (by rw [hs]; simp)
        holds := by simp [Slot.holds, hs, SlotState.phase]
        queued := by simp
        quiet := fun hq => ⟨hq.1, by simp⟩
        lawful := Slot.lawful_aborted rfl husable (fun _ => hmoved) (fun e => by
          rw [hs] at e
          cases e) }
    · next hj => exact h.slot_kept hj j

theorem State.exchangesLawful.abortQueued (h : s.exchangesLawful) (hs : (s.slotAt n).state = .queued) :
    (Machine.abortQueued n s).exchangesLawful := by
  obtain ⟨-, hline, -, hsched, -, hareas, -⟩ := abortQueued_frame n s
  refine h.slotChanged (n := n) (h.stands.change (h.stands.abortQueued hs)) (fun j hj => ?_)
    (State.sendsOn_of_eq hsched hline) (fun a => by rw [State.areaAt_congr hareas]; exact ⟨rfl, rfl⟩)
    (State.requestAgrees_of_quiet ?_)
  · rw [abortQueued_slotAt, abortInPhase_slotAt, if_neg hj]
  · rw [abortQueued_slotAt, abortInPhase_slotAt, if_pos rfl]
    exact ⟨((h.request n).quiet (by simp [Slot.takesOutcome, SlotState.inPhase, hs])).1, by simp⟩

theorem State.exchangesLawful.abortInPhase (h : s.exchangesLawful) (hs : (s.slotAt n).state.inPhase = true)
    (hi : (s.slotAt n).inFlight = none) : (Machine.abortInPhase n s).exchangesLawful := by
  have hlawful := h.stands.lawful n
  obtain ⟨-, hphase, -⟩ := id hlawful
  rw [abortInPhase_eq]
  exact h.setSlot_quiet (Slot.standsUnless_aborted (Slot.takesOutcome_of_inPhase hs) hlawful rfl rfl
    (hphase hs).symm rfl And.left) ⟨hi, by simp⟩

/-- ABORT over a request in flight: the slot waits for the outcome, its request as it was (R162). -/
theorem State.exchangesLawful.abortInFlight (h : s.exchangesLawful) (hs : (s.slotAt n).state.inPhase = true)
    (hi : (s.slotAt n).inFlight.isSome = true) : (Machine.abortInFlight n s).exchangesLawful := by
  obtain ⟨q, hq⟩ := Option.isSome_iff_exists.mp hi
  have ht := Slot.takesOutcome_of_inPhase hs
  have hlawful := h.stands.lawful n
  obtain ⟨husable, hnone, -, hopening, hmoved⟩ := (Slot.lawful_taking_iff ht).mp hlawful
  have hy : ∀ y : Slot, y = { s.slotAt n with
      state := .abortPending, run := { (s.slotAt n).run with abortRequested := true } } →
      (s.setSlot n y).exchangesLawful := by
    intro y hy
    have hty : y.takesOutcome = true := by rw [hy]; rfl
    refine h.setSlot (h.stands.change (h.stands.standsAs_setSlot n (Slot.standsUnless_taking ht hty (by rw [hy])
      (fun hquiet => absurd (hq.symm.trans hquiet.1) (by simp)) id ((Slot.lawful_taking_iff hty).mpr (by
        rw [hy]
        exact ⟨husable, hnone, fun e => (by cases e), hopening, hmoved⟩))))) ⟨fun r hr => ?_, fun _ => ?_⟩
    · rw [State.slotAt_setSlot_same] at hr ⊢
      obtain ⟨-, hfits, hfor, u, hu, hkind, hmodule⟩ := (h.request n).1 r (by rw [hy] at hr; exact hr)
      exact ⟨hty, by rw [hy]; exact hfits, hfor, u, hu, hkind, by rw [hy]; exact hmodule⟩
    · rw [State.slotAt_setSlot_same, hy]
      exact Option.isSome_iff_ne_none.mp hi
  exact hy _ rfl

/-- RESUME of a slot aborted in a phase: the slot is in that phase again (R167). -/
theorem State.exchangesLawful.resumePhase (h : s.exchangesLawful) (hs : (s.slotAt n).state = .aborted)
    (hp : (s.slotAt n).run.recordedPhase ≠ .none) :
    (s.updSlot n (fun y => { y.resumed with state := y.run.recordedPhase.state })).exchangesLawful := by
  have hlawful := h.stands.lawful n
  obtain ⟨husable, -, -, -, hopening, hmoved⟩ := id hlawful
  have hholds : (s.slotAt n).holds = true := by simp [Slot.holds, hs, hp]
  have hphase := Phase.state_takes hp
  have hty : Slot.takesOutcome { (s.slotAt n).resumed with state := (s.slotAt n).run.recordedPhase.state } = true :=
    Slot.takesOutcome_of_inPhase hphase.2
  have hquiet := (h.request n).quiet (by simp [Slot.takesOutcome, SlotState.inPhase, hs])
  obtain ⟨hyholds, hyqueued, hyfree⟩ := Slot.holds_of_takesOutcome hty
  refine h.setSlot_quiet {
    host := rfl
    free := iff_of_false hyfree (by rw [hs]; simp)
    holds := by simp [hyholds, hholds]
    queued := iff_of_false hyqueued (by rw [hs]; simp)
    quiet := fun hq => ⟨hq.1, hphase.1⟩
    lawful := (Slot.lawful_taking_iff hty).mpr ⟨husable (by rw [hs]; simp), hp, fun _ => ?_,
      fun e => hopening (Or.inr e), hmoved hholds⟩ } ⟨hquiet.1, hphase.1⟩
  exact (Phase.state_phase _).symm

/-! ### The areas (R131 to R135) -/

/-- A slot out of FREE that uses an area has it bound (R136). -/
theorem State.exchangesStand.bound (h : s.exchangesStand) {d : Direction} (hs : (s.slotAt n).state ≠ .free)
    (hd : (s.slotAt n).host.direction = some d) :
    (s.areaAt (s.slotAt n).host.area).binding = some { slot := n, direction := d } :=
  (h.binding_iff _ n d).mpr ⟨hs, rfl, hd⟩

/-- The areas change, their bindings stand, and a piece in flight still fits the area that its slot has bound. -/
theorem State.exchangesLawful.areasChanged (h : s.exchangesLawful) (ht : t.table = s.table) (hx : t.exch = s.exch)
    (hon : s.sendsOn t)
    (ha : ∀ a, (t.areaAt a).binding = (s.areaAt a).binding ∧ (t.areaAt a).fill ≤ (t.areaAt a).size)
    (hwrite : ∀ a j, (s.areaAt a).binding = some { slot := j, direction := .write } →
      (s.slotAt j).takesOutcome = true → (s.areaAt a).fill ≤ (t.areaAt a).fill)
    (hread : ∀ a j, (s.areaAt a).binding = some { slot := j, direction := .read } →
      (s.slotAt j).takesOutcome = true → (t.areaAt a).fill ≤ (s.areaAt a).fill ∧ (s.areaAt a).size ≤ (t.areaAt a).size) :
    t.exchangesLawful := by
  refine t.exchangesLawful_iff.mpr ⟨h.stands.change (h.stands.standsAs_areas ht hx ha), fun j =>
    (h.request j).keep hon (State.slotAt_congr hx j) fun q hq hfits => ?_⟩
  have htakes := ((h.request j).1 q hq).1
  have hfree := Slot.ne_free_of_takesOutcome htakes
  cases q with
  | openExchange => exact hfits
  | close => exact hfits
  | put e bit =>
    obtain ⟨hphase, hd, hmoves, hfill⟩ := hfits
    exact ⟨hphase, hd, hmoves, hfill.trans (hwrite _ j (h.stands.bound hfree hd) htakes)⟩
  | fetch e bit =>
    obtain ⟨hphase, hd, hmoves, hroom⟩ := hfits
    obtain ⟨hfill, hsize⟩ := hread _ j (h.stands.bound hfree hd) htakes
    exact ⟨hphase, hd, hmoves, by omega⟩

/-- One area changes. -/
theorem State.exchangesLawful.areaChanged (h : s.exchangesLawful) {a : Fin 4} {r : AreaRecord} (ht : t.table = s.table)
    (hx : t.exch = s.exch) (hon : s.sendsOn t) (hown : t.areaAt a = r) (hother : otherAreasKept a s t)
    (hb : r.binding = (s.areaAt a).binding) (hf : r.fill ≤ r.size) (hs : r.size = (s.areaAt a).size)
    (hwrite : ∀ j, (s.areaAt a).binding = some { slot := j, direction := .write } →
      (s.slotAt j).takesOutcome = true → (s.areaAt a).fill ≤ r.fill)
    (hread : ∀ j, (s.areaAt a).binding = some { slot := j, direction := .read } →
      (s.slotAt j).takesOutcome = true → r.fill ≤ (s.areaAt a).fill) : t.exchangesLawful := by
  have hcases : ∀ b, b = a ∧ t.areaAt b = r ∨ t.areaAt b = s.areaAt b := fun b => by
    by_cases hb : b = a
    · exact Or.inl ⟨hb, hb ▸ hown⟩
    · exact Or.inr (hother b hb)
  refine h.areasChanged ht hx hon (fun b => ?_) (fun b j hbj htakes => ?_) (fun b j hbj htakes => ?_) <;>
    rcases hcases b with ⟨rfl, e⟩ | e <;> rw [e]
  · exact ⟨hb, hf⟩
  · exact ⟨rfl, h.stands.fill_le b⟩
  · exact hwrite j hbj htakes
  · exact ⟨hread j hbj htakes, hs.ge⟩
  · exact ⟨le_rfl, le_rfl⟩

theorem AreaUnit.layout_fresh (u : AreaUnit) (a : Fin 4) :
    u.layout[a].binding = none ∧ u.layout[a].fill = 0 := by
  have h : ∀ a : Fin 4, ∃ start size, u.layout[a] = freshArea start size := by
    intro a
    match a with
    | 0 | 1 | 2 | 3 => exact ⟨_, _, rfl⟩
  obtain ⟨start, size, e⟩ := h a
  rw [e]
  exact ⟨rfl, rfl⟩

theorem State.anyAreaBound_eq_false_iff (s : State) : s.anyAreaBound = false ↔ ∀ a, (s.areaAt a).binding = none := by
  simp [State.anyAreaBound, List.any_eq_false, mem_allAreas]

/-- CONFIGURE with no area bound (R131). -/
theorem State.exchangesLawful.configure (h : s.exchangesLawful) (hb : s.anyAreaBound = false) :
    State.exchangesLawful { s with areas := { s.areas with records := s.areas.layout } } := by
  have hunbound := s.anyAreaBound_eq_false_iff.mp hb
  refine h.areasChanged (t := { s with areas := { s.areas with records := s.areas.layout } }) rfl rfl
    (State.sendsOn_of_eq rfl rfl) (fun a => ?_) (fun a j e => ?_) (fun a j e => ?_)
  · obtain ⟨hbinding, hfill⟩ := s.areas.layout_fresh a
    exact ⟨hbinding.trans (hunbound a).symm, hfill.le.trans (Nat.zero_le _)⟩
  · rw [hunbound a] at e
    cases e
  · rw [hunbound a] at e
    cases e

/-- FLUSH of an area that no slot uses any more (R135). -/
theorem State.exchangesLawful.flush (h : s.exchangesLawful) {a : Fin 4} (hf : flushable (s.areaAt a) s = true) :
    (s.setArea a (s.areaAt a).emptied).exchangesLawful := by
  have hunused : ∀ j d, (s.areaAt a).binding = some { slot := j, direction := d } →
      (s.slotAt j).takesOutcome ≠ true := by
    intro j d hb ht
    simp only [flushable, hb, Bool.or_eq_true, beq_iff_eq] at hf
    rcases hf with hf | hf <;> simp [Slot.takesOutcome, SlotState.inPhase, hf] at ht
  exact h.areaChanged (r := (s.areaAt a).emptied) rfl rfl (State.sendsOn_of_eq rfl rfl)
    (State.areaAt_setArea_same s a _) (State.setArea_otherAreasKept s a _) rfl (Nat.zero_le _) rfl
    (fun j hb ht => absurd ht (hunused j _ hb)) (fun _ _ _ => Nat.zero_le _)

/-- A host write to the data port of an area that serves no READ (R133). -/
theorem State.exchangesLawful.portWrite (h : s.exchangesLawful) {a : Fin 4} (v : Byte)
    (hr : (s.areaAt a).serves .read = false) (hf : (s.areaAt a).fill < (s.areaAt a).size) :
    (appendToArea a [v] s).exchangesLawful := by
  obtain ⟨hown, -, hother⟩ := appendToArea_areaAt a [v] s
  refine h.areaChanged (by simp) (by simp) (State.sendsOn_of_eq (by simp) (by simp)) hown hother rfl ?_ rfl
    (fun _ _ _ => Nat.le_add_right _ _) (fun j hb _ => ?_)
  · exact hf
  · simp [AreaRecord.serves, hb] at hr

/-- A host read of the data port of an area that serves no WRITE (R134). -/
theorem State.exchangesLawful.portRead (h : s.exchangesLawful) {a : Fin 4} (hw : (s.areaAt a).serves .write = false) :
    (s.setArea a ((s.areaAt a).consume 1)).exchangesLawful := by
  refine h.areaChanged (r := (s.areaAt a).consume 1) rfl rfl (State.sendsOn_of_eq rfl rfl)
    (State.areaAt_setArea_same s a _) (State.setArea_otherAreasKept s a _) rfl
    ((Nat.sub_le _ _).trans (h.stands.fill_le a)) rfl (fun j hb _ => ?_) (fun _ _ _ => Nat.sub_le _ _)
  simp [AreaRecord.serves, hb] at hw

end

end Sys2Proof.Machine
end

section
/-! SUPPORT. The agreement of slots, module table, areas and transaction in flight, kept by every effect of every
command; and the statement on it. -/

namespace Sys2Proof.Machine

/-! ### A link with no cycle has no transaction in flight -/

/-- Out of RUNNING and STOPPING no transaction is in flight: what the agreement rests on of the line's law (R22). -/
def State.lineIdle (s : State) : Prop := s.link.state.cycling = false → s.line.txn = none

section
variable {s u : State} {t : Txn}

theorem State.lineLawful.idle (h : s.lineLawful) : s.lineIdle := by
  intro hk
  obtain ⟨hoff, hchecking, -, -⟩ := h
  cases hs : s.link.state with
  | off => exact (hoff (Or.inl hs)).1
  | fault => exact (hoff (Or.inr hs)).1
  | checking => exact (hchecking (Or.inl hs)).1
  | idle => exact (hchecking (Or.inr hs)).1
  | running => rw [hs] at hk; cases hk
  | stopping => rw [hs] at hk; cases hk

theorem State.lineIdle_of_none (h : s.line.txn = none) : s.lineIdle := fun _ => h

theorem State.lineIdle_of_cycling (h : s.link.state.cycling = true) : s.lineIdle := fun hk =>
  absurd (h.symm.trans hk) (by simp)

theorem State.lineIdle.frame (h : s.lineIdle) (hk : u.link = s.link) (hl : u.line = s.line) : u.lineIdle := by
  intro hu
  rw [hl]
  exact h (by rw [← hk]; exact hu)

theorem State.lineIdle.cycling (h : s.lineIdle) (ht : s.line.txn = some t) : s.link.state.cycling = true := by
  by_contra hk
  rw [h (by simpa using hk)] at ht
  cases ht

theorem enterFault_lineIdle (c : LinkCause) (h : s.line.txn = none) : (enterFault c s).lineIdle := by
  obtain ⟨-, htxn, -⟩ := enterFault_facts c h
  exact State.lineIdle_of_none htxn

theorem enterOff_lineIdle (h : s.line.txn = none) : (enterOff s).lineIdle := by
  obtain ⟨-, htxn, -⟩ := enterOff_facts h
  exact State.lineIdle_of_none htxn

theorem stopDone_lineIdle (h : s.line.txn = none) : (stopDone s).lineIdle := by
  obtain ⟨-, hfree, -⟩ := stopDone_facts h
  exact State.lineIdle_of_none hfree.1

theorem endTxn_lineIdle (h : s.lineIdle) (ht : s.line.txn = some t) (hk : u.link = s.link) (o : TxnOutcome)
    (order : EndOrder) : (endTxn t o order u).lineIdle := by
  by_cases hlim : o = .echoFault ∧ 2 ≤ u.line.echoFaults
  · rw [endTxn_atLimit order hlim]
    exact enterFault_lineIdle _ (routed_free t o u).1
  · rcases (LinkState.cycling_iff _).mp (h.cycling ht) with hs | hs
    · have hrunning : u.link.state = .running := by rw [hk]; exact hs
      rw [endTxn_running order hlim hrunning]
      refine State.lineIdle_of_cycling ?_
      rw [(decideInOrder_frame order _).2.1, routed_link, hrunning]
      rfl
    · rw [endTxn_stopping order hlim (by rw [hk]; exact hs)]
      exact stopDone_lineIdle (routed_free t o u).1

theorem stopLink_lineIdle (s : State) : (stopLink s).lineIdle := by
  unfold stopLink
  dsimp only
  split
  · next hn => exact stopDone_lineIdle (by simpa using hn)
  · exact State.lineIdle_of_cycling rfl

theorem afterExpiry_lineIdle (h : s.lineIdle) : (afterExpiry s).lineIdle := by
  cases hk : s.link.state.cycling with
  | true => exact State.lineIdle_of_cycling (by rw [(afterExpiry_frame s).2.1]; exact hk)
  | false =>
    have hsame : afterExpiry s = s := by
      unfold afterExpiry
      cases hs : s.link.state <;> simp [hs, LinkState.cycling] at hk ⊢
    rw [hsame]
    exact h

theorem State.decisionDue.running (h : s.decisionDue = true) : s.link.state = .running ∧ s.line.txn = none := by
  obtain ⟨hk, ht, -⟩ := s.decisionDue_iff.mp h
  exact ⟨hk, ht⟩

end

/-- Every effect of every command leaves a link with no cycle without a transaction. -/
theorem lineIdle_kept : KeptByEffects State.lineIdle where
  powerOn _ _ := State.lineIdle_of_none rfl
  platform _ _ := State.lineIdle_of_none rfl
  window _ _ h := h
  pending _ _ h := h
  windowEvent _ h := h
  plain v r s h := h.frame (by simp) (by simp)
  start _ h hk := State.lineIdle_of_none (h (by rw [hk]; rfl))
  run s _ _ := State.lineIdle_of_cycling (by rw [(cycleStart_frame _ _).2.1]; rfl)
  stop s _ _ := stopLink_lineIdle s
  shutdown s _ _ := enterOff_lineIdle (cutTxn_line s)
  linkConfig v r s h hk := State.lineIdle_of_none (by
    rw [(putLinkConfig_frame v r s).2.1]
    exact h (by rw [hk]; rfl))
  cycleLength v r s h _ := h.frame (by simp) (by simp)
  scanList v r s h _ := h.frame (by simp) (by simp)
  searchVacant _ _ h _ := h
  moduleField _ _ _ h _ := h
  expect _ h _ _ := h
  adopt _ h _ _ _ := h
  forget _ h _ _ := h
  disable _ h _ _ := h
  enable _ h _ := h
  staging v r s h := h.frame (by simp) (by simp)
  imageFlags _ _ h _ _ _ _ _ _ := h
  slotField _ _ _ h _ := h
  limit v r s h _ := h.frame (by simp) (by simp)
  post s h _ _ _ _ := h.frame (by simp) (by simp)
  retire s h _ := h.frame (by simp) (by simp)
  restart s h _ _ := h.frame (by simp) (by simp)
  abortQueued s h _ := h.frame (by simp) (by simp)
  abortInFlight _ h _ _ := h
  abortInPhase _ h _ _ := h
  resumeQueued s h _ _ _ := h.frame (by simp) (by simp)
  resumePhase _ h _ _ := h
  staged v r s h := h.frame (by simp) (by simp)
  configure _ h _ _ := h
  flush _ h _ := h
  portWrite _ _ h _ _ _ := h
  portRead _ h _ _ _ := h
  pop _ h _ := h
  clearLost _ h := h
  clearing _ _ h := h
  intEnable _ _ h := h
  attnEnable _ _ h := h
  pulseStart _ h _ := h
  pulseEnd _ h := h
  checkPassed _ h hk := State.lineIdle_of_none (h (by rw [hk]; rfl))
  checkFailed highs s h hk := enterFault_lineIdle .lineHeld
    (s := { s with link := { s.link with highSamples := highs } }) (h (by rw [hk]; rfl))
  expiry _ s h _ := afterExpiry_lineIdle (s := { s with sched := { s.sched with timer := .expired } }) h
  gap _ _ h ht _ := State.lineIdle_of_cycling (h.cycling ht)
  settle _ _ _ _ _ h ht _ := State.lineIdle_of_cycling (h.cycling ht)
  await _ _ _ h ht _ _ := State.lineIdle_of_cycling (h.cycling ht)
  receive _ _ _ h ht _ := State.lineIdle_of_cycling (h.cycling ht)
  markEnd _ _ order _ h _ _ ht _ _ := endTxn_lineIdle h ht (by rfl) _ order
  txnEnd _ o _ order _ h _ _ ht _ _ _ := endTxn_lineIdle h ht (by rfl) o order
  due s _ _ _ hd := State.lineIdle_of_cycling (by
    rw [(nextDecision_frame s).2.1, (State.decisionDue.running hd).1]
    rfl)

/-! ### The effects on the agreement -/

section
variable {s u : State} {t : Txn}

/-- An effect on window, link, images, notices, limits or settings leaves the agreement. -/
theorem State.exchangesLawful.frame (h : s.exchangesLawful) (hm : u.table = s.table)
    (hx : ∀ j, u.slotAt j = s.slotAt j) (ha : ∀ a, u.areaAt a = s.areaAt a) (hs : u.sched.forSlot = s.sched.forSlot)
    (hl : u.line.txn = s.line.txn) :
    u.exchangesLawful :=
  h.congr (fun k => by rw [State.moduleAt_congr hm]; exact ⟨rfl, rfl⟩) hx ha
    ⟨hs, fun v hv => ⟨v, hl.trans hv, rfl, rfl⟩⟩

/-- A command on one module record that names what it named. -/
theorem State.exchangesLawful.updModule (h : s.exchangesLawful) {k : Fin 30} {f : ModuleRecord → ModuleRecord}
    (hh : (f (s.moduleAt k)).holder = (s.moduleAt k).holder)
    (hw : (f (s.moduleAt k)).waiting = (s.moduleAt k).waiting) : (s.updModule k f).exchangesLawful := by
  refine h.congr (fun j => ?_) (fun _ => rfl) (fun _ => rfl) (State.sendsOn_of_eq rfl rfl)
  rw [State.moduleAt_updModule]
  split
  · next hj => rw [hj]; exact ⟨hh, hw⟩
  · exact ⟨rfl, rfl⟩

/-- The transaction in flight moves on to another phase. -/
theorem State.exchangesLawful.setTxn (h : s.exchangesLawful) (ht : s.line.txn = some t) {v : Txn} (lde : Bool)
    (ltx : LtxLevel) (hu : s.alike u) (hk : v.kind = t.kind) (ha : v.address = t.address) :
    (setTxn v lde ltx u).exchangesLawful := by
  obtain ⟨htable, hexch, hareas, hfor⟩ := hu
  refine h.congr (t := Machine.setTxn v lde ltx u) (fun k => ?_) (State.slotAt_congr hexch) (State.areaAt_congr hareas)
    ⟨hfor, fun w hw => ⟨v, rfl, ?_⟩⟩
  · rw [show (Machine.setTxn v lde ltx u).moduleAt k = s.moduleAt k from State.moduleAt_congr htable k]
    exact ⟨rfl, rfl⟩
  · rw [← Option.some.inj (ht.symm.trans hw)]
    exact ⟨hk, ha⟩

theorem writePlain_slotAt (v : Byte) (r : Reg) (s : State) (j : Fin 8) : (writePlain v r s).slotAt j = s.slotAt j := by
  unfold writePlain
  split
  · unfold writeSubject
    split
    · split <;> rfl
    · split <;> rfl
    · split <;> rfl
    all_goals rfl
  all_goals rfl

theorem writePlain_areaAt (v : Byte) (r : Reg) (s : State) (a : Fin 4) : (writePlain v r s).areaAt a = s.areaAt a := by
  unfold writePlain
  split
  · unfold writeSubject
    split
    · split <;> rfl
    · split <;> rfl
    · split <;> rfl
    all_goals rfl
  all_goals rfl

theorem putLimit_slotAt (v : Byte) (r : Reg) (s : State) (j : Fin 8) : (putLimit v r s).slotAt j = s.slotAt j := by
  unfold putLimit
  split <;> rfl

theorem putStaged_areaAt (v : Byte) (r : Reg) (s : State) (a : Fin 4) : (putStaged v r s).areaAt a = s.areaAt a := by
  unfold putStaged
  split <;> rfl

theorem putCycleLength_forSlot (v : Byte) (r : Reg) (s : State) :
    (putCycleLength v r s).sched.forSlot = s.sched.forSlot := by
  unfold putCycleLength
  split <;> rfl

theorem putScanList_forSlot (v : Byte) (r : Reg) (s : State) :
    (putScanList v r s).sched.forSlot = s.sched.forSlot := by
  unfold putScanList
  split <;> rfl

theorem ModuleRecord.putField_names (v : Byte) (r : Reg) (m : ModuleRecord) :
    (m.putField v r).holder = m.holder ∧ (m.putField v r).waiting = m.waiting := by
  unfold ModuleRecord.putField
  split <;> exact ⟨rfl, rfl⟩

/-- All slots FREE, no module with a holder or a waiting slot, no area bound (R90, R128, R140). -/
theorem State.exchangesLawful_of_reset (hs : ∀ n, s.slotAt n = Slot.reset)
    (hm : ∀ k, (s.moduleAt k).holder = .none ∧ (s.moduleAt k).waiting = [])
    (ha : ∀ a, (s.areaAt a).binding = none ∧ (s.areaAt a).fill = 0) : s.exchangesLawful := by
  refine s.exchangesLawful_iff.mpr
    ⟨⟨fun n => ?_, fun k => ?_, fun a => ?_⟩, fun n => State.requestAgrees_of_quiet ?_⟩
  · unfold State.slotAgrees
    rw [hs n]
    refine ⟨fun k => ?_, fun k => ?_, fun a d => ?_, Slot.reset_lawful⟩
    · rw [(hm k).1]
      exact iff_of_false (by simp) (fun e => by cases e.1)
    · rw [(hm k).2]
      exact iff_of_false (by simp) (fun e => by cases e.1)
    · rw [(ha a).1]
      exact iff_of_false (by simp) (fun e => e.1 rfl)
  · rw [(hm k).2]
    exact List.nodup_nil
  · rw [(ha a).2]
    exact Nat.zero_le _
  · rw [hs n]
    exact ⟨rfl, by decide⟩

theorem State.exchangesLawful.stopLink (h : s.exchangesLawful) : (stopLink s).exchangesLawful := by
  have hstopping : (changeLink .stopping .command s).exchangesLawful :=
    h.frame rfl (fun _ => rfl) (fun _ => rfl) rfl rfl
  unfold Machine.stopLink
  dsimp only
  split
  · next ht => exact (hstopping.settled (by simpa using ht)).stopDone.lawful
  · exact hstopping

theorem State.exchangesLawful.afterExpiry (h : s.exchangesLawful) : (afterExpiry s).exchangesLawful := by
  by_cases ht : s.line.txn = none
  · exact (h.settled ht).afterExpiry
  · rw [afterExpiry_inFlight ht]
    exact h

theorem State.exchangesLawful.setHostField (h : s.exchangesLawful) (v : Byte) (r : Reg)
    (hs : s.selSlot.state = .free) :
    (s.updSlot s.exch.subject (fun x => { x with host := x.host.putField v r })).exchangesLawful := h.setHost hs _

theorem State.exchangesLawful.post (h : s.exchangesLawful) (hs : s.selSlot.state = .free)
    (hu : s.selSlot.host.usable = true)
    (hb : s.selSlot.host.direction.isSome = true → (s.areaAt s.selSlot.host.area).binding = none) :
    (postSlot s.exch.subject s).exchangesLawful := by
  obtain ⟨-, hline, -, hsched, -⟩ := postSlot_frame s.exch.subject s
  exact h.enqueueSlot (h.stands.readied_post hs hu hb) (State.sendsOn_of_eq hsched hline)

/-- RESTART, and RESUME of a slot aborted from QUEUED (R121, R166). -/
theorem State.exchangesLawful.requeue (h : s.exchangesLawful) {n : Fin 8} {f : Slot → Slot}
    (hx : (s.slotAt n).restartable = true) (hh : (f (s.slotAt n)).host = (s.slotAt n).host)
    (hp : (f (s.slotAt n)).run.recordedPhase = .none) (hb : (f (s.slotAt n)).run.bytesMoved = 0)
    (hi : (f (s.slotAt n)).inFlight = (s.slotAt n).inFlight) :
    (Machine.enqueueSlot n (s.updSlot n f)).exchangesLawful := by
  obtain ⟨-, hline, -, hsched, -⟩ := enqueueSlot_frame n (s.updSlot n f)
  exact h.enqueueSlot (h.stands.readied_updSlot hx hh hp hb hi) (State.sendsOn_of_eq hsched hline)

theorem State.exchangesLawful.resumeQueued (h : s.exchangesLawful) (hs : s.selSlot.state = .aborted)
    (hp : s.selSlot.run.recordedPhase = .none) :
    (Machine.enqueueSlot s.exch.subject (s.updSlot s.exch.subject Slot.resumed)).exchangesLawful :=
  h.requeue ((Slot.restartable_iff _).mpr (Or.inr (Or.inr ⟨hs, hp⟩))) rfl hp
    ((h.stands.lawful s.exch.subject).notMoved (Or.inl hp)) rfl

end

/-! ### Every effect -/

/-- The agreement, with no transaction in flight out of RUNNING and STOPPING. -/
def State.exchangesIdle (s : State) : Prop := s.lineIdle ∧ s.exchangesLawful

/-- Every effect of every command keeps the agreement. -/
theorem exchangesIdle_kept : KeptByEffects State.exchangesIdle where
  powerOn s h := ⟨lineIdle_kept.powerOn s h.1, State.reset_exchangesLawful⟩
  platform s h := ⟨lineIdle_kept.platform s h.1, State.exchangesLawful_of_reset (fun n => platformValues_slotAt s n)
    (fun k => by rw [platformValues_moduleAt]; exact ⟨rfl, rfl⟩)
    (fun a => by rw [platformValues_areaAt]; exact ⟨rfl, rfl⟩)⟩
  window _ _ h := h
  pending _ _ h := h
  windowEvent _ h := h
  plain v r s h := ⟨lineIdle_kept.plain v r s h.1, h.2.congr
    (fun k => by rw [writePlain_moduleAt]; exact ⟨rfl, rfl⟩) (writePlain_slotAt v r s) (writePlain_areaAt v r s)
    (State.sendsOn_of_eq (by simp) (by simp))⟩
  start s h hk := ⟨lineIdle_kept.start s h.1 hk, h.2.frame rfl (fun _ => rfl) (fun _ => rfl) rfl rfl⟩
  run s h hk := ⟨lineIdle_kept.run s h.1 hk, (State.settledBut.cycleStart (s := changeLink .running .command s)
    (h.2.settled (h.1 (by rw [hk]; rfl))) false).lawful⟩
  stop s h hk := ⟨lineIdle_kept.stop s h.1 hk, h.2.stopLink⟩
  shutdown s h hk := ⟨lineIdle_kept.shutdown s h.1 hk, (h.2.cutTxn.1.enterOff h.2.cutTxn.2).lawful⟩
  linkConfig v r s h hk := ⟨lineIdle_kept.linkConfig v r s h.1 hk, h.2.frame (by simp)
    (State.slotAt_congr (by simp)) (State.areaAt_congr (by simp)) (by simp) (by simp)⟩
  cycleLength v r s h hk := ⟨lineIdle_kept.cycleLength v r s h.1 hk, h.2.frame (by simp)
    (State.slotAt_congr (by simp)) (State.areaAt_congr (by simp)) (putCycleLength_forSlot v r s) (by simp)⟩
  scanList v r s h hk := ⟨lineIdle_kept.scanList v r s h.1 hk, h.2.frame (by simp)
    (State.slotAt_congr (by simp)) (State.areaAt_congr (by simp)) (putScanList_forSlot v r s) (by simp)⟩
  searchVacant _ _ h _ := h
  moduleField v r s h _ := ⟨h.1, h.2.updModule (ModuleRecord.putField_names v r _).1
    (ModuleRecord.putField_names v r _).2⟩
  expect _ h _ _ := ⟨h.1, h.2.updModule rfl rfl⟩
  adopt _ h _ _ _ := ⟨h.1, h.2.updModule rfl rfl⟩
  forget _ h _ _ := ⟨h.1, h.2.updModule rfl rfl⟩
  disable _ h _ _ := ⟨h.1, h.2.updModule rfl rfl⟩
  enable _ h _ := ⟨h.1, h.2.updModule rfl rfl⟩
  staging v r s h := ⟨lineIdle_kept.staging v r s h.1, h.2.frame (by simp)
    (State.slotAt_congr (by simp)) (State.areaAt_congr (by simp)) (by simp) (by simp)⟩
  imageFlags _ _ h _ _ _ _ _ _ := h
  slotField v r _ h hs := ⟨h.1, h.2.setHostField v r hs⟩
  limit v r s h hk := ⟨lineIdle_kept.limit v r s h.1 hk, h.2.frame (by simp) (putLimit_slotAt v r s)
    (State.areaAt_congr (by simp)) (by simp) (by simp)⟩
  post s h hs hu ht hb := ⟨lineIdle_kept.post s h.1 hs hu ht hb, h.2.post hs hu hb⟩
  retire s h hx := ⟨lineIdle_kept.retire s h.1 hx, h.2.retireSlot hx⟩
  restart s h hx ht := ⟨lineIdle_kept.restart s h.1 hx ht, h.2.requeue hx rfl rfl rfl rfl⟩
  abortQueued s h hs := ⟨lineIdle_kept.abortQueued s h.1 hs, h.2.abortQueued hs⟩
  abortInFlight _ h hs hi := ⟨h.1, h.2.abortInFlight hs hi⟩
  abortInPhase _ h hs hi := ⟨h.1, h.2.abortInPhase hs hi⟩
  resumeQueued s h hs hp ht := ⟨lineIdle_kept.resumeQueued s h.1 hs hp ht, h.2.resumeQueued hs hp⟩
  resumePhase _ h hs hp := ⟨h.1, h.2.resumePhase hs hp⟩
  staged v r s h := ⟨lineIdle_kept.staged v r s h.1, h.2.frame (by simp)
    (State.slotAt_congr (by simp)) (putStaged_areaAt v r s) (by simp) (by simp)⟩
  configure _ h hb _ := ⟨h.1, h.2.configure hb⟩
  flush _ h hf := ⟨h.1, h.2.flush hf⟩
  portWrite v _ h _ hr hf := ⟨h.1, h.2.portWrite v hr hf⟩
  portRead _ h _ hw _ := ⟨h.1, h.2.portRead hw⟩
  pop _ h _ := h
  clearLost _ h := h
  clearing _ _ h := h
  intEnable _ _ h := h
  attnEnable _ _ h := h
  pulseStart _ h _ := h
  pulseEnd _ h := h
  checkPassed s h hk := ⟨lineIdle_kept.checkPassed s h.1 hk, h.2⟩
  checkFailed highs s h hk := ⟨lineIdle_kept.checkFailed highs s h.1 hk,
    (State.settledBut.enterFault (s := { s with link := { s.link with highSamples := highs } })
      (h.2.settled (h.1 (by rw [hk]; rfl))) .lineHeld).lawful⟩
  expiry r s h hr := ⟨lineIdle_kept.expiry r s h.1 hr,
    State.exchangesLawful.afterExpiry (s := { s with sched := { s.sched with timer := .expired } }) h.2⟩
  gap t s h ht hp := ⟨lineIdle_kept.gap t s h.1 ht hp, h.2.setTxn ht _ _ ⟨rfl, rfl, rfl, rfl⟩ rfl rfl⟩
  settle t cs cause d s h ht hp :=
    ⟨lineIdle_kept.settle t cs cause d s h.1 ht hp, h.2.setTxn ht _ _ ⟨rfl, rfl, rfl, rfl⟩ rfl rfl⟩
  await t d s h ht hp hm :=
    ⟨lineIdle_kept.await t d s h.1 ht hp hm, h.2.setTxn ht _ _ ⟨rfl, rfl, rfl, rfl⟩ rfl rfl⟩
  receive t d s h ht hp := ⟨lineIdle_kept.receive t d s h.1 ht hp, h.2.setTxn ht _ _ ⟨rfl, rfl, rfl, rfl⟩ rfl rfl⟩
  markEnd t d order s h hr ha ht hp hm := ⟨lineIdle_kept.markEnd t d order s h.1 hr ha ht hp hm,
    h.2.endTxn ht ⟨by rfl, by rfl, by rfl, by rfl⟩ (by simp) order⟩
  txnEnd t o d order s h hr ha ht hp ho hab := ⟨lineIdle_kept.txnEnd t o d order s h.1 hr ha ht hp ho hab,
    h.2.endTxn ht ⟨by rfl, by rfl, by rfl, by rfl⟩ hab order⟩
  due s h hr ha hd := ⟨lineIdle_kept.due s h.1 hr ha hd, (h.2.settled (State.decisionDue.running hd).2).nextDecision⟩

/-- Settles O60: the line's law leaves a link with no cycle without a transaction, and with that every effect keeps the
agreement. -/
theorem exchangeLawsKept : Obligations.ExchangeLawsKept := by
  unfold Obligations.ExchangeLawsKept
  intro s t hline hexchanges hstep
  exact (step_keeps exchangesIdle_kept ⟨hline.idle, hexchanges⟩ hstep).2

end Sys2Proof.Machine
end

section
/-! SUPPORT. What an effect can do to the area unit, said once: bytes leave an area or are appended to one, or nothing
changes; and that the end of a transaction does no more. -/

namespace Sys2Proof.Machine

/-- The oldest `n` bytes of an area have left (R134, R137). -/
def AreaUnit.consumed (u : AreaUnit) (a : Fin 4) (n : Nat) : AreaUnit :=
  { u with records := u.records.set a (u.records[a].consume n) }

/-- Bytes have been placed after the newest byte of an area (R133, R138). -/
def AreaUnit.appended (u : AreaUnit) (a : Fin 4) (bytes : List Byte) : AreaUnit :=
  { u with
    memory := u.records[a].place u.memory bytes
    records := u.records.set a (u.records[a].grow bytes.length) }

/-- What the data port and the exchanges do to the area unit. -/
inductive AreaUnit.Moves (u : AreaUnit) : AreaUnit → Prop
  | still : u.Moves u
  | consumed (a : Fin 4) (n : Nat) : u.Moves (u.consumed a n)
  | appended (a : Fin 4) (bytes : List Byte) : u.Moves (u.appended a bytes)

theorem AreaUnit.Moves.of_eq {u v : AreaUnit} (h : v = u) : u.Moves v := h ▸ .still

theorem State.setArea_consume_areas (s : State) (a : Fin 4) (n : Nat) :
    (s.setArea a ((s.areaAt a).consume n)).areas = s.areas.consumed a n := rfl

theorem appendToArea_areas (a : Fin 4) (bytes : List Byte) (s : State) :
    (appendToArea a bytes s).areas = s.areas.appended a bytes := rfl

/-! ### The outcome of a slot's transaction -/

theorem putAccepted_moves (n : Fin 8) (e : Nat) (bit : Bool) (s : State) :
    s.areas.Moves (putAccepted n e bit s).areas := .consumed (s.slotAt n).host.area e

theorem dataReply_moves (n : Fin 8) (e : Nat) (bit : Bool) (r : Reply) (s : State) :
    s.areas.Moves (dataReply n e bit r s).areas := by
  rw [dataReply_eq]
  split
  · exact .of_eq (by simp)
  · split
    · exact .of_eq (by simp)
    · exact .appended (s.slotAt n).host.area r.payload

/-- Of the replies an accepted piece alone reaches the area: ACCEPT of a PUT, or DATA to a FETCH. -/
theorem slotReply_moves (n : Fin 8) (q : SlotRequest) (r : Reply) (s : State) :
    s.areas.Moves (slotReply n q r s).areas := by
  unfold slotReply
  split
  · exact .of_eq (by simp)
  · exact .of_eq (by simp)
  · split
    · exact .of_eq (by simp)
    · exact putAccepted_moves _ _ _ s
    · exact .still
    · exact .still
  · split
    · exact dataReply_moves _ _ _ _ s
    all_goals exact .still
  · split
    · exact .of_eq (by simp)
    all_goals exact .still
  all_goals exact .still

theorem applySlotOutcome_moves (n : Fin 8) (q : SlotRequest) (o : TxnOutcome) (s : State) :
    s.areas.Moves (applySlotOutcome n q o s).areas := by
  match o with
  | .reply (some r) => exact slotReply_moves n q r s
  | .reply none => exact .still
  | .timeout | .corrupt | .stray | .echoFault | .abandoned =>
    exact .of_eq (applySlotOutcome_areas n q s (by simp))

theorem takeSlotOutcome_moves (n : Fin 8) (o : TxnOutcome) (s : State) :
    s.areas.Moves (takeSlotOutcome n o s).areas := by
  unfold takeSlotOutcome
  dsimp only
  split
  · exact .still
  · next q _ =>
    rw [State.updSlot_areas]
    split
    · rw [(resolveAbort_frame n _).2.2.2.2.2.2.1]
      exact applySlotOutcome_moves n q o s
    · exact .still

/-! ### The end of a transaction -/

theorem routeSlot_moves (k : Fin 30) (o : TxnOutcome) (s : State) : s.areas.Moves (routeSlot k o s).areas := by
  have hcounted : (countOutcome k o s).areas = s.areas := (countOutcome_frame k o s).2.2.2.2.2.1
  unfold routeSlot
  split
  · exact hcounted ▸ takeSlotOutcome_moves _ o (countOutcome k o s)
  · exact .of_eq hcounted

theorem routeOutcome_moves (t : Txn) (o : TxnOutcome) (s : State) : s.areas.Moves (routeOutcome t o s).areas := by
  unfold routeOutcome
  dsimp only
  split
  · next k _ =>
    cases t.kind with
    | mark => exact .still
    | scan => exact .of_eq (by simp [routeTo])
    | probe => exact .of_eq (by simp [routeTo])
    | cancel => exact .of_eq (by simp [routeTo])
    | openExchange | put | fetch | close => exact routeSlot_moves k o s
  · exact .still

/-- What follows the routing leaves the areas. -/
theorem endTxn_moves (t : Txn) (o : TxnOutcome) (order : EndOrder) (s : State) :
    s.areas.Moves (endTxn t o order s).areas := by
  rw [endTxn, (afterOutcome_frame _ _ _).2.1]
  exact routeOutcome_moves t o (removeTxn o s)

/-- SHUTDOWN's cut routes no reply, and so leaves images and areas. -/
theorem cutTxn_kept (s : State) : (cutTxn s).image = s.image ∧ (cutTxn s).areas = s.areas := by
  cases ht : s.line.txn with
  | none => simp only [cutTxn, ht, and_self]
  | some t =>
    obtain ⟨-, -, -, himage, hareas⟩ := cutTxn_blocks ht
    exact ⟨himage, hareas⟩

end Sys2Proof.Machine
end

section
/-! SUPPORT. The four images and the data memory in their canonical form, through every effect; and the statement on
it. -/

namespace Sys2Proof.Machine

/-- The four images stand in their canonical form. -/
def ImageUnit.canonical (i : ImageUnit) : Prop := i.live.wf ∧ i.held.wf ∧ i.staging.wf ∧ i.active.wf

theorem State.memoriesWf_iff (s : State) : s.memoriesWf ↔ s.image.canonical ∧ s.areas.memory.wf := by
  simp only [State.memoriesWf, ImageUnit.canonical, and_assoc]

section
variable {s t : State} {i j : ImageUnit}

theorem ImageUnit.canonical_congr (hl : j.live = i.live) (hh : j.held = i.held) (hs : j.staging = i.staging)
    (ha : j.active = i.active) (h : i.canonical) : j.canonical := by
  unfold ImageUnit.canonical
  rwa [hl, hh, hs, ha]

/-- Bytes placed keep the data memory's form; bytes that leave an area do not touch it. -/
theorem AreaUnit.Moves.memory_wf {u v : AreaUnit} (hm : u.Moves v) (h : u.memory.wf) : v.memory.wf := by
  cases hm with
  | still => exact h
  | consumed a n => exact h
  | appended a bytes => exact AreaRecord.place_wf _ h bytes

theorem State.memoriesWf.change (h : s.memoriesWf) (hi : s.image.canonical → t.image.canonical)
    (ha : s.areas.memory.wf → t.areas.memory.wf) : t.memoriesWf :=
  t.memoriesWf_iff.mpr ((s.memoriesWf_iff.mp h).imp hi ha)

/-- An operation on other blocks, or on the records of the areas alone. -/
theorem State.memoriesWf.frame (h : s.memoriesWf) (hi : t.image = s.image)
    (ha : t.areas.memory = s.areas.memory) : t.memoriesWf := h.change (fun hc => hi ▸ hc) (fun hc => ha ▸ hc)

/-- An operation that leaves the areas. -/
theorem State.memoriesWf.images (h : s.memoriesWf) (ha : t.areas = s.areas)
    (hi : s.image.canonical → t.image.canonical) : t.memoriesWf := h.change hi (fun hc => ha ▸ hc)

end

/-! ### The images through a cycle -/

theorem cycleEnd_canonical (x : CycleStatus) (c : Nat) {s : State} (h : s.image.canonical) :
    (cycleEnd x c s).image.canonical := by
  obtain ⟨hlive, hheld, hstaging, hactive⟩ := h
  obtain ⟨el, es, ea, -⟩ := cycleEnd_kept x c s
  unfold ImageUnit.canonical
  rw [el, es, ea, cycleEnd_held]
  refine ⟨hlive, ?_, hstaging, hactive⟩
  split
  exacts [hlive, hheld]

theorem cycleStart_canonical (late : Bool) {s : State} (h : s.image.canonical) :
    (cycleStart late s).image.canonical := by
  obtain ⟨hlive, hheld, hstaging, hactive⟩ := h
  obtain ⟨el, eh, es, ea⟩ := cycleStart_images late s
  unfold ImageUnit.canonical
  rw [el, eh, es, ea]
  refine ⟨hlive, hheld, hstaging, ?_⟩
  split
  exacts [hstaging, hactive]

theorem overrunCut_canonical (late : Bool) {s : State} (h : s.image.canonical) :
    (overrunCut late s).image.canonical := cycleStart_canonical late (cycleEnd_canonical _ _ h)

theorem walk_canonical {s : State} (h : s.image.canonical) : (walk s).image.canonical := by
  unfold walk
  split
  · exact h
  · rw [(enterAcyclic_frame _).2.2.1]
    exact cycleEnd_canonical _ _ h

theorem nextDecision_canonical {s : State} (h : s.image.canonical) : (nextDecision s).image.canonical := by
  unfold nextDecision
  dsimp only
  split
  · split
    exacts [overrunCut_canonical true (s := enterScan s) h, walk_canonical (s := enterScan s) h]
  · split
    exacts [overrunCut_canonical true h, walk_canonical h]
  · split
    · exact cycleStart_canonical true h
    · rw [(acyclicPick_frame s).2.2.1]
      exact h
  · split
    exacts [cycleStart_canonical true h, h]
  · split
    exacts [cycleStart_canonical true h, h]
  · exact h

theorem decideInOrder_canonical (order : EndOrder) {s : State} (h : s.image.canonical) :
    (decideInOrder order s).image.canonical := by
  rcases decideInOrder_cases order s with e | ⟨-, ⟨-, e⟩ | ⟨-, e⟩⟩ <;> rw [e]
  exacts [nextDecision_canonical h, h, h]

theorem afterExpiry_canonical {s : State} (h : s.image.canonical) : (afterExpiry s).image.canonical := by
  unfold afterExpiry
  split
  · split
    · exact h
    · split
      exacts [overrunCut_canonical false h, overrunCut_canonical false h, cycleStart_canonical false h,
        cycleStart_canonical false h, cycleStart_canonical false h, h]
  all_goals exact h

/-! ### The images through the entries out of cycling -/

theorem linkDownStep_canonical (c : Condition) {s : State} (h : s.image.canonical) :
    (linkDownStep c s).image.canonical := by
  rw [linkDownStep_image]
  exact h

theorem enterFault_canonical (c : LinkCause) {s : State} (h : s.image.canonical) :
    (enterFault c s).image.canonical :=
  linkDownStep_canonical _ (s := changeLink .fault c (releasePair s)) h

theorem enterOff_canonical {s : State} (h : s.image.canonical) : (enterOff s).image.canonical := by
  rw [enterOff_eq]
  exact linkDownStep_canonical _ h

theorem stopDone_canonical {s : State} (h : s.image.canonical) : (stopDone s).image.canonical := by
  rw [stopDone, (abortSlots_frame _ _).2.2.2.2.2.1, stoppedCycleEnd_eq]
  dsimp only
  split
  exacts [cycleEnd_canonical _ _ (s := changeLink .idle .stopDone (drivePair s)) h, h]

theorem stopLink_canonical {s : State} (h : s.image.canonical) : (stopLink s).image.canonical := by
  unfold stopLink
  dsimp only
  split
  exacts [stopDone_canonical (s := changeLink .stopping .command s) h, h]

/-! ### The images at the end of a transaction -/

/-- A good SCAN_REPLY writes its input bytes into the live image (R93). -/
theorem takeScan_canonical (k : Fin 30) (o : TxnOutcome) {s : State} (h : s.image.canonical) :
    (takeScan k o s).image.canonical := by
  match o with
  | .reply (some r) =>
    simp only [takeScan]
    split
    · obtain ⟨hlive, hrest⟩ := h
      rw [(takeScanReply_frame _ _ _).2.2.2.2.1]
      exact ⟨Memory.writeBytes_wf hlive _ _, hrest⟩
    · exact h
  | .reply none => exact h
  | .timeout | .corrupt | .stray | .echoFault | .abandoned =>
    rw [takeScan_image k s (by simp)]
    exact h

theorem routeOutcome_canonical (t : Txn) (o : TxnOutcome) {s : State} (h : s.image.canonical) :
    (routeOutcome t o s).image.canonical := by
  unfold routeOutcome
  dsimp only
  split
  · next k _ =>
    cases t.kind with
    | mark => exact h
    | scan => exact takeScan_canonical k o h
    | probe | cancel | openExchange | put | fetch | close => simpa [routeTo] using h
  · exact h

theorem endTxn_canonical (t : Txn) (o : TxnOutcome) (order : EndOrder) {s : State} (h : s.image.canonical) :
    (endTxn t o order s).image.canonical := by
  have hr : (routeOutcome t o (removeTxn o s)).image.canonical := routeOutcome_canonical t o (s := removeTxn o s) h
  unfold endTxn afterOutcome
  split
  · exact enterFault_canonical _ hr
  · split
    exacts [decideInOrder_canonical order hr, stopDone_canonical hr, hr, hr, hr, hr]

theorem endTxn_memoriesWf (t : Txn) (o : TxnOutcome) (order : EndOrder) {s : State} (h : s.memoriesWf) :
    (endTxn t o order s).memoriesWf :=
  h.change (endTxn_canonical t o order) (endTxn_moves t o order s).memory_wf

/-! ### Every effect -/

/-- A plain register selects and pages; no image and no byte of data memory changes. -/
theorem writePlain_memoriesWf (v : Byte) (r : Reg) {s : State} (h : s.memoriesWf) : (writePlain v r s).memoriesWf := by
  unfold writePlain
  split
  · unfold writeSubject
    (repeat' split) <;> exact h
  all_goals exact h

theorem putStaging_canonical (v : Byte) (r : Reg) {s : State} (h : s.image.canonical) :
    (putStaging v r s).image.canonical := by
  unfold putStaging
  split
  · obtain ⟨hlive, hheld, hstaging, hactive⟩ := h
    exact ⟨hlive, hheld, Memory.write_wf hstaging _ v, hactive⟩
  · exact h

theorem putStaged_memory (v : Byte) (r : Reg) (s : State) :
    (putStaged v r s).areas.memory = s.areas.memory := by
  unfold putStaged
  split <;> rfl

theorem bindArea_memory (n : Fin 8) (h : SlotHost) (s : State) :
    (bindArea n h s).areas.memory = s.areas.memory := by
  unfold bindArea
  split <;> rfl

theorem postSlot_memory (n : Fin 8) (s : State) : (postSlot n s).areas.memory = s.areas.memory := by
  rw [postSlot, (enqueueSlot_frame _ _).2.2.2.2.2.1, bindArea_memory, (clearRun_frame _ _).2.2.2.2.2.2.1]

theorem retireSlot_memory (n : Fin 8) (s : State) : (retireSlot n s).areas.memory = s.areas.memory := by
  rw [retireSlot_areas, unbindArea_memory, (oweCancel_frame _ _).2.2.2.2.2.2.1]

/-- Every effect of every command keeps the images and the data memory in their canonical form. -/
theorem memoriesWf_kept : KeptByEffects State.memoriesWf where
  powerOn _ _ := State.reset_memoriesWf
  platform _ h := h.change (fun _ => ⟨Memory.wf_nil, Memory.wf_nil, Memory.wf_nil, Memory.wf_nil⟩) id
  window _ _ h := h
  pending _ _ h := h
  windowEvent _ h := h
  plain v r _ h := writePlain_memoriesWf v r h
  start s h _ := h.frame (by simp) (by simp)
  run s h _ := h.images (by simp) (cycleStart_canonical false (s := changeLink .running .command s))
  stop s h _ := h.images (by simp) stopLink_canonical
  shutdown s h _ := h.images (by rw [(enterOff_frame _).2.1, (cutTxn_kept s).2])
    (fun hi => enterOff_canonical (by rw [(cutTxn_kept s).1]; exact hi))
  linkConfig v r s h _ := h.frame (by simp) (by simp)
  cycleLength v r s h _ := h.frame (by simp) (by simp)
  scanList v r s h _ := h.frame (by simp) (by simp)
  searchVacant _ _ h _ := h
  moduleField _ _ _ h _ := h
  expect _ h _ _ := h
  adopt _ h _ _ _ := h
  forget _ h _ _ := h
  disable _ h _ _ := h
  enable _ h _ := h
  staging v r s h := h.images (by simp) (putStaging_canonical v r)
  imageFlags _ _ h hl hh hs ha _ _ := h.change (ImageUnit.canonical_congr hl hh hs ha) id
  slotField _ _ _ h _ := h
  limit v r s h _ := h.frame (by simp) (by simp)
  post s h _ _ _ _ := h.frame (by simp) (postSlot_memory _ s)
  retire s h _ := h.frame (by simp) (retireSlot_memory _ s)
  restart s h _ _ := h.frame (by simp) (by simp)
  abortQueued s h _ := h.frame (by simp) (by simp)
  abortInFlight _ h _ _ := h
  abortInPhase _ h _ _ := h
  resumeQueued s h _ _ _ := h.frame (by simp) (by simp)
  resumePhase _ h _ _ := h
  staged v r s h := h.frame (by simp) (putStaged_memory v r s)
  configure _ h _ _ := h
  flush _ h _ := h
  portWrite v s h _ _ _ := h.change id (AreaUnit.Moves.appended s.areas.subject [v]).memory_wf
  portRead _ h _ _ _ := h
  pop _ h _ := h
  clearLost _ h := h
  clearing _ _ h := h
  intEnable _ _ h := h
  attnEnable _ _ h := h
  pulseStart _ h _ := h
  pulseEnd _ h := h
  checkPassed _ h _ := h
  checkFailed highs s h _ := h.images (by simp)
    (enterFault_canonical .lineHeld (s := { s with link := { s.link with highSamples := highs } }))
  expiry _ s h _ := h.images (by simp)
    (afterExpiry_canonical (s := { s with sched := { s.sched with timer := .expired } }))
  gap _ _ h _ _ := h
  settle _ _ _ _ _ h _ _ := h
  await _ _ _ h _ _ _ := h
  receive _ _ _ h _ _ := h
  markEnd t d order s h _ _ _ _ _ := endTxn_memoriesWf t _ order
    (s := { s.elapse d with line := { (s.elapse d).line with echoFaults := 0 } }) h
  txnEnd t o d order s h _ _ _ _ _ _ := endTxn_memoriesWf t o order (s := s.elapse d) h
  due s h _ _ _ := h.images (by simp) nextDecision_canonical

/-- Settles O54: every effect copies, writes and places bytes by operations that keep the canonical form. -/
theorem memoriesStayCanonical : Obligations.MemoriesStayCanonical := by
  unfold Obligations.MemoriesStayCanonical
  intro s t hmemories hstep
  exact step_keeps memoriesWf_kept hmemories hstep

end Sys2Proof.Machine
end

section
/-! SUPPORT. The areas in their layout and the maps of the modules in service inside the image, through every effect; no
fault where both hold; and the statement on it. -/

namespace Sys2Proof.Machine

/-! ### The layout of the areas (R129, R132) -/

/-- The oldest position of an area that has room lies in it (R132). -/
def AreaRecord.oldestInside (r : AreaRecord) : Prop := r.size ≠ 0 → r.oldest < r.size

/-- The area lies where it lay, and its oldest position is still inside it. -/
def AreaRecord.staysLaid (r r' : AreaRecord) : Prop :=
  r'.start = r.start ∧ r'.size = r.size ∧ (r.oldestInside → r'.oldestInside)

theorem AreaRecord.staysLaid.refl (r : AreaRecord) : r.staysLaid r := ⟨rfl, rfl, id⟩

/-- Bytes that leave move the oldest position on, wrapping at the size (R134). -/
theorem AreaRecord.consume_staysLaid (r : AreaRecord) (n : Nat) : r.staysLaid (r.consume n) :=
  ⟨rfl, rfl, fun _ hs => Nat.mod_lt _ (Nat.pos_of_ne_zero hs)⟩

theorem AreaRecord.grow_staysLaid (r : AreaRecord) (n : Nat) : r.staysLaid (r.grow n) := ⟨rfl, rfl, id⟩

theorem AreaRecord.emptied_staysLaid (r : AreaRecord) : r.staysLaid r.emptied :=
  ⟨rfl, rfl, fun _ hs => Nat.pos_of_ne_zero hs⟩

theorem AreaRecord.platformReset_staysLaid (r : AreaRecord) : r.staysLaid r.platformReset := r.emptied_staysLaid

theorem AreaRecord.bound_staysLaid (r : AreaRecord) (b : Option Binding) : r.staysLaid { r with binding := b } :=
  ⟨rfl, rfl, id⟩

section
variable {s t : State}

theorem State.layoutLawful.change (h : s.layoutLawful) (ha : ∀ a, (s.areaAt a).staysLaid (t.areaAt a)) :
    t.layoutLawful := by
  obtain ⟨h0, h1, h2, h3, hend, hunits, holdest⟩ := h
  have hstart : ∀ a, (t.areaAt a).start = (s.areaAt a).start := fun a => (ha a).1
  have hsize : ∀ a, (t.areaAt a).size = (s.areaAt a).size := fun a => (ha a).2.1
  refine ⟨?_, ?_, ?_, ?_, ?_, fun a => ?_, fun a => (ha a).2.2 (holdest a)⟩ <;> simp only [hstart, hsize]
  exacts [h0, h1, h2, h3, hend, hunits a]

theorem State.layoutLawful.frame (h : s.layoutLawful) (ha : t.areas = s.areas) : t.layoutLawful :=
  h.change fun a => State.areaAt_congr ha a ▸ .refl _

/-- One area changes within its place. -/
theorem State.layoutLawful.setArea (h : s.layoutLawful) {a : Fin 4} {r : AreaRecord}
    (hr : (s.areaAt a).staysLaid r) : (s.setArea a r).layoutLawful := by
  refine h.change fun b => ?_
  rw [State.areaAt_setArea]
  split
  · next hb => exact hb ▸ hr
  · exact .refl _

theorem State.layoutLawful.append (h : s.layoutLawful) (a : Fin 4) (bytes : List Byte) :
    (appendToArea a bytes s).layoutLawful :=
  State.layoutLawful.setArea (s := { s with areas := { s.areas with memory := _ } }) h
    ((s.areaAt a).grow_staysLaid bytes.length)

/-- Bytes that move through the areas leave the layout. -/
theorem State.layoutLawful.moved (h : s.layoutLawful) (ha : s.areas.Moves t.areas) : t.layoutLawful := by
  generalize hu : t.areas = u at ha
  cases ha with
  | still => exact h.frame hu
  | consumed a n =>
    exact State.layoutLawful.frame (h.setArea ((s.areaAt a).consume_staysLaid n))
      (hu.trans (s.setArea_consume_areas a n).symm)
  | appended a bytes => exact State.layoutLawful.frame (h.append a bytes) (hu.trans (appendToArea_areas a bytes s).symm)

theorem State.layoutLawful.bindArea (h : s.layoutLawful) (n : Fin 8) (x : SlotHost) :
    (bindArea n x s).layoutLawful := by
  unfold Machine.bindArea
  split
  exacts [h.setArea ((s.areaAt x.area).bound_staysLaid _), h]

theorem State.layoutLawful.unbindArea (h : s.layoutLawful) (x : SlotHost) : (unbindArea x s).layoutLawful := by
  unfold Machine.unbindArea
  split
  exacts [h.setArea ((s.areaAt x.area).bound_staysLaid _), h]

/-- An area laid out afresh is a whole number of units, and its oldest position is 0. -/
theorem AreaUnit.layout_unitsAndOldest (u : AreaUnit) (a : Fin 4) :
    u.layout[a].size % 64 = 0 ∧ u.layout[a].oldestInside := by
  have hfresh : ∃ start, u.layout[a] = freshArea start (u.stagedBytes a) := by
    match a with
    | 0 | 1 | 2 | 3 => exact ⟨_, rfl⟩
  obtain ⟨start, e⟩ := hfresh
  rw [e]
  exact ⟨Nat.mul_mod_left _ 64, Nat.pos_of_ne_zero⟩

/-- CONFIGURE lays the areas out one after another, and 64 units fill the data memory (R131). -/
theorem State.layoutLawful_configure (hu : s.areas.stagedUnits ≤ Config.areaUnitsTotal) :
    State.layoutLawful { s with areas := { s.areas with records := s.areas.layout } } := by
  refine ⟨rfl, (Nat.zero_add _).symm, rfl, rfl, ?_, fun a => (s.areas.layout_unitsAndOldest a).1,
    fun a => (s.areas.layout_unitsAndOldest a).2⟩
  change s.areas.stagedBytes 0 + s.areas.stagedBytes 1 + s.areas.stagedBytes 2 + s.areas.stagedBytes 3 ≤ 4096
  simp only [AreaUnit.stagedUnits, allAreas, List.map_cons, List.map_nil, List.sum_cons, List.sum_nil,
    Config.areaUnitsTotal] at hu
  simp only [AreaUnit.stagedBytes, Config.areaUnitBytes]
  omega

end

theorem State.reset_layoutLawful (q : List Instr) : ({ State.reset with pending := q } : State).layoutLawful :=
  State.reset_addressingLawful.2

/-- Every effect of every command keeps the layout of the areas. -/
theorem layoutLawful_kept : KeptByEffects State.layoutLawful where
  powerOn s _ := State.reset_layoutLawful s.pending
  platform s h := h.change fun a => by
    rw [platformValues_areaAt]
    exact (s.areaAt a).platformReset_staysLaid
  window _ _ h := h
  pending _ _ h := h
  windowEvent _ h := h
  plain v r s h := h.change fun a => by
    rw [writePlain_areaAt]
    exact .refl _
  start s h _ := h.frame (by simp)
  run s h _ := h.frame (by simp)
  stop s h _ := h.frame (by simp)
  shutdown s h _ := h.frame (by rw [(enterOff_frame _).2.1, (cutTxn_kept s).2])
  linkConfig v r s h _ := h.frame (by simp)
  cycleLength v r s h _ := h.frame (by simp)
  scanList v r s h _ := h.frame (by simp)
  searchVacant _ _ h _ := h
  moduleField _ _ _ h _ := h
  expect _ h _ _ := h
  adopt _ h _ _ _ := h
  forget _ h _ _ := h
  disable _ h _ _ := h
  enable _ h _ := h
  staging v r s h := h.frame (by simp)
  imageFlags _ _ h _ _ _ _ _ _ := h
  slotField _ _ _ h _ := h
  limit v r s h _ := h.frame (by simp)
  post s h _ _ _ _ := State.layoutLawful.frame
    (State.layoutLawful.bindArea (s := clearRun s.exch.subject s) h s.exch.subject s.selSlot.host)
    (enqueueSlot_frame _ _).2.2.2.2.2.1
  retire s h _ := State.layoutLawful.frame
    (State.layoutLawful.unbindArea (h.frame (oweCancel_frame s.exch.subject s).2.2.2.2.2.2.1) s.selSlot.host)
    (retireSlot_areas _ s)
  restart s h _ _ := h.frame (by simp)
  abortQueued s h _ := h.frame (by simp)
  abortInFlight _ h _ _ := h
  abortInPhase _ h _ _ := h
  resumeQueued s h _ _ _ := h.frame (by simp)
  resumePhase _ h _ _ := h
  staged v r s h := h.change fun a => by
    rw [putStaged_areaAt]
    exact .refl _
  configure _ _ _ hu := State.layoutLawful_configure hu
  flush s h _ := h.setArea s.selArea.emptied_staysLaid
  portWrite v s h _ _ _ := h.append s.areas.subject [v]
  portRead s h _ _ _ := h.setArea (s.selArea.consume_staysLaid 1)
  pop _ h _ := h
  clearLost _ h := h
  clearing _ _ h := h
  intEnable _ _ h := h
  attnEnable _ _ h := h
  pulseStart _ h _ := h
  pulseEnd _ h := h
  checkPassed _ h _ := h
  checkFailed _ s h _ := h.frame (by simp)
  expiry _ s h _ := h.frame (by simp)
  gap _ _ h _ _ := h
  settle _ _ _ _ _ h _ _ := h
  await _ _ _ h _ _ _ := h
  receive _ _ _ h _ _ := h
  markEnd t d order s h _ _ _ _ _ := State.layoutLawful.moved
    (s := { s.elapse d with line := { (s.elapse d).line with echoFaults := 0 } }) h (endTxn_moves t _ order _)
  txnEnd t o d order s h _ _ _ _ _ _ := State.layoutLawful.moved (s := s.elapse d) h (endTxn_moves t o order _)
  due s h _ _ _ := h.frame (by simp)

/-! ### The maps of the modules in service (R92) -/

/-- In service, a module's map stays inside the image (R92). -/
def ModuleRecord.addressed (m : ModuleRecord) : Prop := m.state.inService = true → m.regionsInside = true

theorem ModuleRecord.addressed_of_unserved {m : ModuleRecord} (h : m.state.inService = false) : m.addressed :=
  fun hs => absurd (h.symm.trans hs) (by simp)

theorem ModuleState.linkDown_unserved (st : ModuleState) : st.linkDown.inService = false := by cases st <;> rfl

theorem ModuleRecord.lengthOk_regionsInside {m : ModuleRecord} (h : m.lengthOk = true) : m.regionsInside = true :=
  (m.lengthOk_iff.mp h).2.2

/-- A record comes into service by a judgement that found its regions inside, and the map stands while it serves. -/
theorem addressed_kept (threshold : Nat) : KeptByRecords threshold ModuleRecord.addressed where
  counted _ h hs := fun _ => h hs
  suspect _ h hs _ := fun _ => h hs
  lost _ _ _ := ModuleRecord.addressed_of_unserved rfl
  scanned _ _ h hs := fun _ => h hs
  identified i m _ _ hi := fun _ =>
    ModuleRecord.lengthOk_regionsInside ((m.reported i).identify_eq_none_iff.mp hi).2.2
  mismatched _ _ _ _ _ _ := ModuleRecord.addressed_of_unserved rfl
  found _ _ _ _ := ModuleRecord.addressed_of_unserved rfl
  freed _ h := h
  cancelHeld _ _ h _ := h
  aged _ h := h
  linkDown m _ := ModuleRecord.addressed_of_unserved m.state.linkDown_unserved
  append _ _ h _ := h
  remove _ _ h := h
  claim _ _ h _ _ := h
  release _ _ h := by unfold ModuleRecord.release; split <;> exact h
  releaseForCancel _ _ _ h := by unfold ModuleRecord.releaseForCancel; split <;> exact h

/-- The host's map fields change out of service alone, and ADOPT judges the map it takes into service (R66, R78). -/
theorem addressed_keptByCommands : KeptByModuleCommands ModuleRecord.addressed where
  reset := ModuleRecord.addressed_of_unserved rfl
  platform m _ := ModuleRecord.addressed_of_unserved m.state.linkDown_unserved
  field v r m _ hs := ModuleRecord.addressed_of_unserved (by
    rw [(ModuleRecord.standing_eq (m.putField_standing v r)).1]
    exact hs)
  expect _ _ _ _ := ModuleRecord.addressed_of_unserved rfl
  adopt m _ _ _ hl := fun _ => ModuleRecord.lengthOk_regionsInside hl
  forget _ _ _ _ := ModuleRecord.addressed_of_unserved rfl
  disable _ _ _ _ := ModuleRecord.addressed_of_unserved rfl
  enable m _ _ := ModuleRecord.addressed_of_unserved (by dsimp only; split <;> rfl)

/-! ### No fault -/

/-- The areas one after another, the last of them inside: each is inside (R129, R139). -/
theorem State.layoutLawful.areasInside {s : State} (h : s.layoutLawful) : s.areasInside = true := by
  obtain ⟨h0, h1, h2, h3, hend, -, -⟩ := h
  refine s.areasInside_iff.mpr fun a => decide_eq_true ?_
  change (s.areaAt a).start + (s.areaAt a).size ≤ 4096
  match a with
  | 0 => omega
  | 1 => omega
  | 2 => omega
  | 3 => exact hend

section
variable {s : State}

/-- The faults stand for regions and areas outside their memories alone. -/
theorem exec_next (c : Instr) (hr : s.regionsInside = true) (ha : s.areasInside = true) :
    ∃ t, exec c s = .next t := by
  have hended : ∀ t, ∃ u, whenAddressed s t = .next u := fun t => ⟨t, whenAddressed_eq t hr ha⟩
  have harea : s.selArea.inside = true := s.areasInside_iff.mp ha _
  cases c with
  | dataPortWrite v =>
    simp only [exec, execDataPortWrite, harea, if_true]
    split <;> exact ⟨_, rfl⟩
  | dataPortRead =>
    simp only [exec, execDataPortRead, harea, if_true]
    split
    · exact ⟨_, rfl⟩
    · split <;> exact ⟨_, rfl⟩
  | requestEchoed back order =>
    simp only [exec, execRequestEchoed]
    split
    · split
      exacts [hended _, ⟨_, rfl⟩]
    · exact ⟨_, rfl⟩
  | replyWindowExpiry order =>
    simp only [exec, execReplyWindowExpiry]
    split
    exacts [hended _, ⟨_, rfl⟩]
  | quietLimitExpiry characters idle order =>
    simp only [exec, execQuietLimitExpiry]
    split
    · split
      exacts [hended _, ⟨_, rfl⟩]
    · exact ⟨_, rfl⟩
  | settlingEnd wait order =>
    simp only [exec, execSettlingEnd]
    split
    · split
      exacts [hended _, ⟨_, rfl⟩]
    · exact ⟨_, rfl⟩
  | replyReceived frame idle order =>
    simp only [exec, execReplyReceived]
    split
    · split
      exacts [hended _, ⟨_, rfl⟩]
    · exact ⟨_, rfl⟩
  | _ => exact ⟨_, rfl⟩

theorem step_next (hr : s.regionsInside = true) (ha : s.areasInside = true) : ∃ t, step s = .next t := by
  unfold step
  split
  · unfold whenIdle
    split
    exacts [⟨_, whenAddressed_eq _ hr ha⟩, ⟨_, rfl⟩]
  · next c rest _ => exact exec_next (s := { s with pending := rest }) c hr ha

end

/-- Settles O55: with regions and areas inside no step faults, and every effect keeps the maps of the modules in service
and the layout of the areas. -/
theorem stepsNeverStopAndStayAddressed : Obligations.StepsNeverStopAndStayAddressed := by
  unfold Obligations.StepsNeverStopAndStayAddressed
  intro s hs
  obtain ⟨hregions, hlayout⟩ := hs
  obtain ⟨t, ht⟩ := step_next hregions hlayout.areasInside
  have hmodules := step_keeps (modules_keep addressed_kept addressed_keptByCommands)
    (s.regionsInside_iff.mp hregions) ht
  exact ⟨t, ht, t.regionsInside_iff.mpr hmodules, step_keeps layoutLawful_kept hlayout ht⟩

end Sys2Proof.Machine
end

section
/-! SUPPORT. The register maps: at which indexes each unit has a register, and which of them are read-only; and the
statement on ports, units and maps. -/

namespace Sys2Proof.Machine

/-- The indexes from `a` to `b`. -/
def indexIn (i a b : Nat) : Bool := decide (a ≤ i ∧ i ≤ b)

/-- The indexes at which a unit's map has a register (Tables 11-4 to 11-6). -/
def UnitId.hasIndex (u : UnitId) (i : Nat) : Bool :=
  match u with
  | .global => indexIn i 0 1 || indexIn i 4 0xF
  | .link => indexIn i 0 1 || indexIn i 4 0xB
  | .cycle => indexIn i 0 1 || indexIn i 4 0x11 || indexIn i 0x20 0x20 || indexIn i 0x40 0x5F
  | .modules => indexIn i 0 1 || indexIn i 2 2 || indexIn i 4 0x1D || indexIn i 0x20 0x27
  | .image => indexIn i 0 1 || indexIn i 4 0xC || indexIn i 0xE 0xF || indexIn i 0x20 0x3D || indexIn i 0x40 0x7F
  | .slots => indexIn i 0 1 || indexIn i 2 2 || indexIn i 4 5 || indexIn i 8 0x10 || indexIn i 0x20 0x41
  | .areas => indexIn i 0 1 || indexIn i 2 2 || indexIn i 4 8 || indexIn i 0xA 0x15
  | .notices => indexIn i 0 1 || indexIn i 4 6 || indexIn i 8 0x13

/-- The indexes past RESULT that a unit's map marks read-only, whatever the image select (Tables 11-4 to 11-6). -/
def UnitId.marksReadOnly (u : UnitId) (i : Nat) : Bool :=
  match u with
  | .global => indexIn i 4 8 || indexIn i 0xC 0xF
  | .link => indexIn i 4 4 || indexIn i 8 0xB
  | .cycle => indexIn i 6 8 || indexIn i 0xA 0x11
  | .modules => indexIn i 4 5 || indexIn i 0xF 0x1D || indexIn i 0x20 0x27
  | .image => indexIn i 7 0xB || indexIn i 0xE 0xF || indexIn i 0x20 0x3D
  | .slots => indexIn i 0x30 0x41
  | .areas => indexIn i 0xA 0x15
  | .notices => indexIn i 4 6 || indexIn i 8 0x13

/-- At an index of a unit: there is a register where the tables list one, and it is read-only where they mark it, or as
an image byte without image select 2. -/
def UnitId.mapAgrees (u : UnitId) (i : Nat) : Prop :=
  (regAt u i).isSome = u.hasIndex i ∧
  ∀ select : Fin 4, (regAt u i).map (Reg.writeClass select) = some .readOnly ↔
    i = 1 ∨ u.marksReadOnly i = true ∨ (u = .image ∧ 0x40 ≤ i ∧ i ≤ 0x7F ∧ select ≠ 2)

/-- The maps end before index 80h. -/
theorem unitMap_index_lt (u : UnitId) : ∀ e ∈ unitMap u, e.1 < 0x80 := by cases u <;> decide

theorem rangeReg_eq_none (u : UnitId) {i : Nat} (h : 0x80 ≤ i) : rangeReg u i = none := by
  cases u with
  | image => exact (dif_neg (by omega)).trans (dif_neg (by omega))
  | cycle | modules | slots | notices => exact dif_neg (by omega)
  | global | link | areas => rfl

theorem regAt_eq_none (u : UnitId) {i : Nat} (h : 0x80 ≤ i) : regAt u i = none := by
  have hmap : (unitMap u).lookup i = none := List.lookup_eq_none_iff.mpr fun e he => by
    have hlt := unitMap_index_lt u e he
    rw [bne_iff_ne]
    omega
  rw [regAt, if_neg (by omega), if_neg (by omega), if_neg (by omega), hmap, rangeReg_eq_none u h, Option.none_or]

theorem UnitId.hasIndex_lt {u : UnitId} {i : Nat} (h : u.hasIndex i = true) : i < 0x80 := by
  cases u <;> simp only [UnitId.hasIndex, indexIn, Bool.or_eq_true, decide_eq_true_eq] at h <;> omega

theorem UnitId.marksReadOnly_lt {u : UnitId} {i : Nat} (h : u.marksReadOnly i = true) : i < 0x80 := by
  cases u <;> simp only [UnitId.marksReadOnly, indexIn, Bool.or_eq_true, decide_eq_true_eq] at h <;> omega

theorem UnitId.mapAgrees_below (u : UnitId) : ∀ i : Fin 0x80, u.mapAgrees i.val := by
  unfold UnitId.mapAgrees
  cases u <;> decide +kernel

theorem UnitId.mapAgrees_all (u : UnitId) (i : Nat) : u.mapAgrees i := by
  rcases Nat.lt_or_ge i 0x80 with h | h
  · exact u.mapAgrees_below ⟨i, h⟩
  · unfold UnitId.mapAgrees
    rw [regAt_eq_none u h]
    refine ⟨(Bool.eq_false_iff.mpr fun hi => ?_).symm, fun select => ⟨fun hn => (by cases hn), ?_⟩⟩
    · exact absurd (UnitId.hasIndex_lt hi) (by omega)
    · rintro (h1 | hm | ⟨-, -, hi, -⟩)
      · omega
      · exact absurd (UnitId.marksReadOnly_lt hm) (by omega)
      · omega

/-- No port but DATA is read by a row of the table (R178, R180). -/
theorem portReadRow_eq_none {p : Port} (h : p ≠ .data) (s : State) : portReadRow p s = none := by
  cases p with
  | data => exact absurd rfl h
  | unit | index | summary => rfl

/-- Settles O11: the ports and the unit numbers case by case, the maps by the index. -/
theorem portsRegistersAndMarks : Obligations.PortsRegistersAndMarks := by
  unfold Obligations.PortsRegistersAndMarks
  refine ⟨rfl, rfl, rfl, rfl,
    fun v s => ⟨rfl, rfl, rfl, rfl, rfl, fun p hp => portReadRow_eq_none hp s, rfl, rfl, rfl, rfl⟩,
    by decide, fun u hu => (unitOf_eq_none_iff u).mpr (Nat.not_lt.mpr hu), ?_⟩
  intro u i span always present marked
  have hpresent : present = u.hasIndex i := by cases u <;> rfl
  have hmarked : marked = u.marksReadOnly i := by cases u <;> rfl
  rw [hpresent, hmarked]
  exact u.mapAgrees_all i

end Sys2Proof.Machine
end

section
/-! SUPPORT. The codes that the units define, as rows of the table; the commands of GLOBAL, IMAGE and NOTICES; and the
statement on them. -/

namespace Sys2Proof.Machine

/-! ### The codes of the units (Table 11-3) -/

/-- The commands of a unit in the order of their codes, from 01h on. -/
def UnitId.commands : UnitId → List Instr
  | .global => [.clearError]
  | .link => [.start, .run, .stop, .shutdown]
  | .cycle => []
  | .modules => [.expect, .adopt, .forget, .disable, .enable]
  | .image => [.commit, .snapshot, .freeze, .release]
  | .slots => [.post, .retire, .restart, .abort, .resume]
  | .areas => [.configure, .flush]
  | .notices => [.pop, .clearLost]

theorem definesCommand_iff (u : UnitId) (c : Byte) :
    definesCommand u c = true ↔ 1 ≤ c.toNat ∧ c.toNat ≤ u.commands.length := by
  cases u with
  | global =>
    have hone : c = 1#8 ↔ c.toNat = 1 := by rw [← BitVec.toNat_inj]; rfl
    simp only [definesCommand, UnitId.commands, beq_iff_eq, hone, List.length_singleton]
    omega
  | cycle =>
    simp only [definesCommand, UnitId.commands, List.length_nil, Bool.false_eq_true, false_iff]
    omega
  | link | modules | image | slots | areas | notices => exact decide_eq_true_iff

/-- The row of a code by its place in the unit's commands, for each byte. -/
theorem commandRow_codes (u : UnitId) : ∀ n : Fin 256, commandRow u (BitVec.ofFin n) =
    if BitVec.ofFin n = 0#8 then .unknownCommand (BitVec.ofFin n)
    else (u.commands[n.val - 1]?).getD (.unknownCommand (BitVec.ofFin n)) := by
  cases u <;> decide +kernel

theorem commandRow_eq (u : UnitId) (c : Byte) : commandRow u c =
    if c = 0#8 then .unknownCommand c else (u.commands[c.toNat - 1]?).getD (.unknownCommand c) :=
  commandRow_codes u c.toFin

/-! ### INT and the queue (R174, R176) -/

theorem bne_eq_decide_ne (a b : Byte) : (a != b) = decide (a ≠ b) := Bool.eq_iff_iff.mpr (by simp)

theorem NoticeUnit.syncInt_eq (n : NoticeUnit) :
    n.syncInt = { n with intLine := decide (n.events &&& n.intEnable ≠ 0#8) } :=
  congrArg (fun b => { n with intLine := b }) (bne_eq_decide_ne _ _)

/-- The last record takes NOTICE_WAITING with it (R174, R175). -/
theorem NoticeUnit.pop_last {n : NoticeUnit} {r : Notice} (h : n.queue = [r]) : n.pop = { n with
    queue := []
    events := n.events &&& 0xFE#8
    intLine := decide (n.events &&& 0xFE#8 &&& n.intEnable ≠ 0#8) } := by
  rw [NoticeUnit.pop, h]
  exact NoticeUnit.syncInt_eq _

theorem NoticeUnit.pop_head {n : NoticeUnit} {r r' : Notice} {rest : List Notice} (h : n.queue = r :: r' :: rest) :
    n.pop = { n with queue := r' :: rest } := by
  rw [NoticeUnit.pop, h]

/-! ### The commands, taken and answered -/

section
variable {s : State}

theorem exec_clearError (h : s.atCommand .global = true) : exec .clearError s = .next (answered .global 1#8 .accepted
    { s with window := { s.window with error := WindowError.empty } }) :=
  congrArg Host.Outcome.next (onCommand_answered h rfl rfl)

theorem exec_pop_refused (h : s.atCommand .notices = true) (hq : s.notices.queue = []) :
    exec .pop s = .next (answered .notices 1#8 .wrongState s) :=
  congrArg Host.Outcome.next (onCommand_refused h (if_pos (by rw [hq]; rfl)))

theorem exec_pop_taken {n : NoticeUnit} (h : s.atCommand .notices = true) (hq : s.notices.queue ≠ [])
    (hn : s.notices.pop = n) : exec .pop s = .next (answered .notices 1#8 .accepted { s with notices := n }) :=
  congrArg Host.Outcome.next (onCommand_accepted h (hn ▸ if_neg (mt List.isEmpty_iff.mp hq)) rfl)

end

/-- Settles O45: the codes by the units' lists, then each command by its check. -/
theorem shortCommandsAnswered : Obligations.ShortCommandsAnswered := by
  unfold Obligations.ShortCommandsAnswered
  refine ⟨fun u code => ?_, fun u code s h hc => ?_, fun s h => exec_clearError h,
    fun s h => ⟨?_, ?_, ?_, ?_⟩, fun s h => ⟨fun hq => ?_, fun r hq => ?_, fun r r' rest hq => ?_, ?_⟩⟩
  · intro defined
    have hdefined : defined = u.commands := by cases u <;> rfl
    rw [hdefined]
    refine ⟨definesCommand_iff u code, fun s h => ?_⟩
    rw [dataWriteRow_command code ((s.atCommand_iff u).mp h).2]
    exact commandRow_eq u code
  · rw [exec_unknownCommand h hc]
    exact congrArg Host.Outcome.next (onCommand_refused h rfl)
  · exact congrArg Host.Outcome.next (onCommand_accepted h rfl rfl)
  · refine congrArg Host.Outcome.next ?_
    split
    · next hf => exact onCommand_refused h (if_pos hf)
    · next hf => exact onCommand_accepted h (if_neg hf) rfl
  · refine congrArg Host.Outcome.next ?_
    split
    · next hf => exact onCommand_refused h (if_pos hf)
    · next hf => exact onCommand_accepted h (if_neg hf) rfl
  · refine congrArg Host.Outcome.next ?_
    split
    · next hf => exact onCommand_accepted h (if_pos hf) rfl
    · next hf => exact onCommand_refused h (if_neg hf)
  · exact exec_pop_refused h hq
  · exact exec_pop_taken h (by rw [hq]; simp) (NoticeUnit.pop_last hq)
  · exact exec_pop_taken h (by rw [hq]; simp) (NoticeUnit.pop_head hq)
  · exact congrArg Host.Outcome.next (onCommand_accepted h rfl rfl)

end Sys2Proof.Machine
end

section
/-! SUPPORT. The writes that are taken at any time: the image unit's settings, the clearing register and the enable
sets; and the statement on them. -/

namespace Sys2Proof.Machine

/-! ### The notice unit after each write (R175, R176) -/

theorem NoticeUnit.clearNamed_eq (v : Byte) (n : NoticeUnit) : n.clearNamed v = { n with
    events := n.events &&& ~~~(v &&& 0x7E#8)
    intLine := decide (n.events &&& ~~~(v &&& 0x7E#8) &&& n.intEnable ≠ 0#8) } := NoticeUnit.syncInt_eq _

theorem NoticeUnit.setIntEnable_eq (v : Byte) (n : NoticeUnit) : n.setIntEnable v = { n with
    intEnable := v &&& 0x7F#8
    intLine := decide (n.events &&& (v &&& 0x7F#8) ≠ 0#8) } := NoticeUnit.syncInt_eq _

/-! ### Each row, taken -/

section
variable {v : Byte} {s : State}

/-- A write at an image byte, with image select 2, goes to the staging image at the page's address (R99, R106). -/
theorem exec_stagingWrite {j : Fin 64} (h : s.atReg (.imageByte j)) (hs : s.image.select = 2) :
    exec (.stagingWrite v) s = .next (stepped
      { s with image := { s.image with staging := s.image.staging.write (s.image.address j) v } }) :=
  congrArg Host.Outcome.next (onWrite_taken h (if_pos hs) rfl rfl rfl)

theorem exec_followWrite (h : s.atReg (.byte .follow)) : exec (.followWrite v) s =
    .next (stepped { s with image := { s.image with follow := decide (v ≠ 0#8) } }) :=
  congrArg Host.Outcome.next (onWrite_taken h rfl rfl
    (congrArg (fun b => ({ s with image := { s.image with follow := b } } : State)) (bne_eq_decide_ne v _)) rfl)

theorem exec_commitDeadlineWrite (h : s.atReg (.byte .deadline)) : exec (.commitDeadlineWrite v) s =
    .next (stepped { s with image := { s.image with deadline := v } }) :=
  congrArg Host.Outcome.next (onWrite_taken h rfl rfl rfl rfl)

theorem exec_clearingRegisterWrite {n : NoticeUnit} (h : s.atReg (.byte .clearing)) (hn : s.notices.clearNamed v = n) :
    exec (.clearingRegisterWrite v) s = .next (stepped { s with notices := n }) :=
  congrArg Host.Outcome.next (onWrite_taken h rfl rfl (by rw [hn]) rfl)

theorem exec_intEnableWrite {n : NoticeUnit} (h : s.atReg (.byte .intEnable)) (hn : s.notices.setIntEnable v = n) :
    exec (.intEnableWrite v) s = .next (stepped { s with notices := n }) :=
  congrArg Host.Outcome.next (onWrite_taken h rfl rfl (by rw [hn]) rfl)

theorem exec_attnEnableWrite (h : s.atReg (.byte .attnEnable)) : exec (.attnEnableWrite v) s =
    .next (stepped { s with notices := s.notices.setAttnEnable v }) :=
  congrArg Host.Outcome.next (onWrite_taken h rfl rfl rfl rfl)

end

/-- Settles O46: each write at its register, the staging byte by the reads of a written memory. -/
theorem alwaysTakenWrites : Obligations.AlwaysTakenWrites := by
  unfold Obligations.AlwaysTakenWrites
  refine ⟨fun v s => ⟨fun j h hs hwf => ?_, exec_followWrite, exec_commitDeadlineWrite⟩, fun v s => ⟨fun h => ?_,
    fun h => ?_, exec_attnEnableWrite⟩⟩
  · exact ⟨s.image.staging.write (s.image.address j) v, exec_stagingWrite h hs, Memory.write_wf hwf _ v,
      Memory.read_write_same hwf _ v, fun a ha => Memory.read_write_other hwf v ha⟩
  · exact exec_clearingRegisterWrite h (s.notices.clearNamed_eq v)
  · exact exec_intEnableWrite h (s.notices.setIntEnable_eq v)

end Sys2Proof.Machine
end

section
/-! SUPPORT. POST and ABORT: the checks of POST, the posted slot with its module and area, and the aborted slot by its
state; and the statements on them. -/

namespace Sys2Proof.Machine

/-! ### The checks of POST (R117) -/

theorem moduleIndex_isSome_iff {a : Nat} : (moduleIndex a).isSome = true ↔ 1 ≤ a ∧ a ≤ 30 := by
  unfold moduleIndex
  split <;> simp [*]

/-- Check 2 of R117, field by field. -/
theorem SlotHost.usable_iff (h : SlotHost) : h.usable = true ↔
    1 ≤ h.moduleAddr.toNat ∧ h.moduleAddr.toNat ≤ 30 ∧ h.kind.toNat ≤ 2 ∧ (h.kind = 0#8 ↔ h.declared = 0#16) ∧
      1 ≤ h.pieceLimit.toNat ∧ h.pieceLimit.toNat ≤ 64 ∧ 4 ≤ h.blockLength.toNat ∧ h.blockLength.toNat ≤ 16 := by
  have hdeclared : (if h.kind = 0#8 then h.declared == 0#16 else h.declared != 0#16) = true ↔
      (h.kind = 0#8 ↔ h.declared = 0#16) := by
    split
    · next hk => simp [hk]
    · next hk => simp [hk]
  simp only [SlotHost.usable, Bool.and_eq_true, decide_eq_true_eq, moduleIndex_isSome_iff, hdeclared, and_assoc]

/-- Of the three kinds only COMMAND_ONLY has no area direction (R113). -/
theorem SlotHost.direction_of_kind {h : SlotHost} (hk : h.kind.toNat ≤ 2) :
    h.direction = if h.kind = 0#8 then none else some (if h.kind = 1#8 then .write else .read) := by
  have hkinds : h.kind = 0#8 ∨ h.kind = 1#8 ∨ h.kind = 2#8 := by bv_omega
  rcases hkinds with e | e | e <;> simp [SlotHost.direction, e]

theorem SlotHost.direction_ne_none_iff {h : SlotHost} (hk : h.kind.toNat ≤ 2) : h.direction ≠ none ↔ h.kind ≠ 0#8 := by
  rw [SlotHost.direction_of_kind hk]
  split <;> simp [*]

section
variable {s : State}

theorem takePost_wrongState (hf : s.selSlot.state ≠ .free) : takePost s = refuse .wrongState s := if_pos hf

theorem takePost_badArgument (hf : s.selSlot.state = .free) (hu : s.selSlot.host.usable = false) :
    takePost s = refuse .badArgument s := by
  simp [takePost, hf, hu]

theorem takePost_absent (hf : s.selSlot.state = .free) (hu : s.selSlot.host.usable = true)
    (hm : s.moduleTakesSlot s.selSlot = false) : takePost s = refuse .absent s := by
  simp [takePost, hf, hu, hm]

/-- Past the first three checks of POST only the area's are left (R117 checks 4 and 5). -/
theorem takePost_areaChecks (hf : s.selSlot.state = .free) (hu : s.selSlot.host.usable = true)
    (hm : s.moduleTakesSlot s.selSlot = true) : takePost s =
      if s.selSlot.host.direction ≠ none ∧ (s.areaAt s.selSlot.host.area).binding ≠ none then refuse .areaBusy s
      else if s.selSlot.host.direction ≠ none ∧ (s.areaAt s.selSlot.host.area).size = 0 then refuse .noRoom s
      else accept (postSlot s.exch.subject s) := by
  simp [takePost, hf, hu, hm, Option.isSome_iff_ne_none]

end

/-! ### The posted slot (R118, R136) -/

theorem bindArea_areaAt (n : Fin 8) (h : SlotHost) (s : State) (a : Fin 4) :
    (bindArea n h s).areaAt a = if h.direction ≠ none ∧ a = h.area
      then { s.areaAt a with binding := h.direction.map fun d => { slot := n, direction := d } }
      else s.areaAt a := by
  cases hd : h.direction with
  | none => rw [bindArea_none hd, if_neg fun h => h.1 rfl]
  | some d =>
    rw [bindArea_some hd, State.areaAt_setArea]
    by_cases ha : a = h.area
    · rw [if_pos ha, if_pos ⟨by simp, ha⟩, ha]
      rfl
    · rw [if_neg ha, if_neg fun h => ha h.2]

/-- A binding leaves the staged sizes and the area subject. -/
theorem bindArea_settings (n : Fin 8) (h : SlotHost) (s : State) :
    (bindArea n h s).areas.staged = s.areas.staged ∧ (bindArea n h s).areas.subject = s.areas.subject := by
  unfold bindArea
  split <;> exact ⟨rfl, rfl⟩

theorem State.updModuleOf_subject (s : State) (x : Slot) (f : ModuleRecord → ModuleRecord) :
    (s.updModuleOf x f).table.subject = s.table.subject := by
  unfold State.updModuleOf
  split <;> rfl

section
variable {n : Fin 8} {s : State}

theorem postSlot_slotAt (j : Fin 8) : (postSlot n s).slotAt j =
    if j = n then { s.slotAt j with state := .queued, run := SlotRun.cleared } else s.slotAt j := by
  have hexch : (bindArea n (s.slotAt n).host (clearRun n s)).exch = (clearRun n s).exch := by simp
  rw [postSlot, enqueueSlot_slotAt, State.slotAt_congr hexch, clearRun_slotAt]
  split <;> rfl

theorem postSlot_moduleAt {k : Fin 30} (hk : (s.slotAt n).host.moduleAddr.toNat = moduleAddress k) (j : Fin 30) :
    (postSlot n s).moduleAt j = if j = k then (s.moduleAt j).append n else s.moduleAt j := by
  obtain ⟨htable, hslot⟩ := bindArea_kept n s
  rw [postSlot, enqueueSlot_moduleAt (by rw [hslot]; exact hk), State.moduleAt_congr htable]

theorem postSlot_areas : (postSlot n s).areas = (bindArea n (s.slotAt n).host (clearRun n s)).areas := by
  simp [postSlot]

theorem postSlot_areaAt (a : Fin 4) : (postSlot n s).areaAt a =
    if (s.slotAt n).host.direction ≠ none ∧ a = (s.slotAt n).host.area
    then { s.areaAt a with binding := (s.slotAt n).host.direction.map fun d => { slot := n, direction := d } }
    else s.areaAt a := by
  rw [State.areaAt_congr postSlot_areas, bindArea_areaAt]
  rfl

/-- The area a posted slot names: bound in the direction of the kind, or as it was for COMMAND_ONLY (R136). -/
theorem postSlot_ownArea {h : SlotHost} (hh : (s.slotAt n).host = h) (hk : h.kind.toNat ≤ 2) :
    (postSlot n s).areaAt h.area = { s.areaAt h.area with
      binding := if h.kind = 0#8 then (s.areaAt h.area).binding
        else some { slot := n, direction := if h.kind = 1#8 then .write else .read } } := by
  rw [postSlot_areaAt, hh]
  by_cases hc : h.kind = 0#8
  · rw [if_neg fun hd => (SlotHost.direction_ne_none_iff hk).mp hd.1 hc, if_pos hc]
  · rw [if_pos ⟨(SlotHost.direction_ne_none_iff hk).mpr hc, rfl⟩, SlotHost.direction_of_kind hk, if_neg hc, if_neg hc]
    rfl

/-- POST leaves the subjects of slots and modules, and the exchange limits. -/
theorem postSlot_settings :
    (postSlot n s).exch.settings = s.exch.settings ∧ (postSlot n s).table.subject = s.table.subject := by
  obtain ⟨htable, -⟩ := bindArea_kept n s
  refine ⟨?_, ?_⟩
  · simp [postSlot, enqueueSlot, ExchangeUnit.settings, clearRun]
  · rw [postSlot, enqueueSlot, State.updModuleOf_subject, State.updSlot_table, htable]

end

/-- Settles O34: the checks one by one, then the posted slot, its module and its area by their own lemmas. -/
theorem postChecksThenQueues : Obligations.PostChecksThenQueues := by
  unfold Obligations.PostChecksThenQueues
  intro s h n x host r fields
  have hu : host.usable = true ↔ fields := host.usable_iff
  refine ⟨fun hf => ?_, fun hf hbad => ?_, fun k hf hfields hk => ?_⟩
  · exact congrArg Host.Outcome.next (onCommand_refused h (takePost_wrongState hf))
  · exact congrArg Host.Outcome.next (onCommand_refused h
      (takePost_badArgument hf (by simpa using mt hu.mp hbad)))
  have hmodule : s.moduleTakesSlot x = (s.moduleAt k).state.takesSlots := State.moduleTakesSlot_eq hk s
  obtain ⟨-, -, hkind, -⟩ := id hfields
  have hdata : host.direction ≠ none ↔ host.kind ≠ 0#8 := SlotHost.direction_ne_none_iff hkind
  have hchecks := fun hm => takePost_areaChecks hf (hu.mpr hfields) (hmodule.trans hm)
  refine ⟨fun hm => ?_, fun hm hk0 hbound => ?_, fun hm hk0 hunbound hsize => ?_, fun hm harea => ?_⟩
  · exact congrArg Host.Outcome.next (onCommand_refused h
      (takePost_absent hf (hu.mpr hfields) (hmodule.trans hm)))
  · exact congrArg Host.Outcome.next (onCommand_refused h
      ((hchecks hm).trans (if_pos ⟨hdata.mpr hk0, hbound⟩)))
  · exact congrArg Host.Outcome.next (onCommand_refused h
      ((hchecks hm).trans ((if_neg fun hc => hc.2 hunbound).trans (if_pos ⟨hdata.mpr hk0, hsize⟩))))
  · have hfree : ¬ (host.direction ≠ none ∧ r.binding ≠ none) ∧ ¬ (host.direction ≠ none ∧ r.size = 0) := by
      rw [hdata]
      tauto
    obtain ⟨hwindow, hline, hlink, hsched, himage, hnotices, -⟩ := postSlot_frame n s
    obtain ⟨hstaged, hareas⟩ := bindArea_settings n host (clearRun n s)
    obtain ⟨hexch, htable⟩ := postSlot_settings (n := n) (s := s)
    obtain ⟨hsubject, hretry, hhold⟩ := ExchangeUnit.settings_eq hexch
    refine ⟨postSlot n s, ?_, ?_, ?_, ?_, fun j hj => ?_, fun j hj => ?_, fun a ha => ?_, postSlot_memory n s, ?_, ?_,
      hsubject, htable, hretry, hhold, hline, hlink, hsched, himage, hnotices, hwindow⟩
    · exact congrArg Host.Outcome.next (onCommand_accepted h
        ((hchecks hm).trans ((if_neg hfree.1).trans (if_neg hfree.2))) hwindow)
    · rw [postSlot_slotAt, if_pos rfl]
      rfl
    · rw [postSlot_moduleAt hk, if_pos rfl]
      rfl
    · exact postSlot_ownArea rfl hkind
    · rw [postSlot_slotAt, if_neg hj]
    · rw [postSlot_moduleAt hk, if_neg hj]
    · rw [postSlot_areaAt, if_neg fun hc => ha hc.2]
    · rw [postSlot_areas]
      exact hstaged
    · rw [postSlot_areas]
      exact hareas

/-! ### ABORT (R160, R161, R162) -/

/-- ABORT out of the queue offers the notice of a slot aborted with no request pending (R160). -/
theorem abortQueued_notices (n : Fin 8) (s : State) : (abortQueued n s).notices =
    s.notices.offer s.sched.cycleCounter (.slotEnded n .aborted .none false) := by
  obtain ⟨-, -, -, hsched, -, -, -, hnotices, -⟩ := s.updModuleOf_frame (s.slotAt n) (ModuleRecord.remove n)
  rw [abortQueued, abortInPhase_eq, State.offer_notices, State.setSlot_notices, State.setSlot_sched, hsched, hnotices]

section
variable {s : State}

theorem takeAbort_queued (hx : s.selSlot.state = .queued) : takeAbort s = accept (abortQueued s.exch.subject s) :=
  if_pos hx

theorem takeAbort_wrongState (hq : s.selSlot.state ≠ .queued) (hp : s.selSlot.state.inPhase = false) :
    takeAbort s = refuse .wrongState s := by
  simp [takeAbort, hq, hp]

theorem SlotState.inPhase_ne_queued {st : SlotState} (h : st.inPhase = true) : st ≠ .queued := by
  rintro rfl
  cases h

theorem takeAbort_inPhase (hp : s.selSlot.state.inPhase = true) : takeAbort s =
    if s.selSlot.inFlight = none then accept (abortInPhase s.exch.subject s)
    else accept (abortInFlight s.exch.subject s) := by
  cases hi : s.selSlot.inFlight <;> simp [takeAbort, SlotState.inPhase_ne_queued hp, hp, hi]

end

/-- Settles O36: the queued slot by its own lemmas, the other states each by one equation of ABORT. -/
theorem abortBySlotState : Obligations.AbortBySlotState := by
  unfold Obligations.AbortBySlotState
  intro s h n x
  refine ⟨fun hx k hk => ⟨abortQueued n s, ?_⟩, fun p hp hx hi => ?_, fun hp hi => ?_, fun hq hp => ?_⟩
  · obtain ⟨hwindow, hline, hlink, hsched, himage, hareas, -⟩ := abortQueued_frame n s
    refine ⟨?_, ?_, ?_, abortQueued_notices n s, fun j hj => ?_, fun j hj => ?_, hareas, hline, hsched, hlink, himage⟩
    · exact congrArg Host.Outcome.next (onCommand_accepted h (takeAbort_queued hx) hwindow)
    · have hphase : (s.slotAt n).state.phase = .none := congrArg SlotState.phase hx
      rw [abortQueued_slotAt, abortInPhase_slotAt, if_pos rfl, hphase]
      rfl
    · rw [abortQueued_moduleAt hk, if_pos rfl]
      rfl
    · rw [abortQueued_slotAt, abortInPhase_slotAt, if_neg hj]
    · rw [abortQueued_moduleAt hk, if_neg hj]
  · have hphase : (s.slotAt n).state.phase = p := (congrArg SlotState.phase hx).trans p.state_phase
    have htake := (takeAbort_inPhase (hx ▸ Phase.state_inPhase hp)).trans (if_pos hi)
    rw [abortInPhase_eq, hphase] at htake
    exact congrArg Host.Outcome.next (onCommand_accepted h htake rfl)
  · exact congrArg Host.Outcome.next (onCommand_accepted h ((takeAbort_inPhase hp).trans (if_neg hi)) rfl)
  · exact congrArg Host.Outcome.next (onCommand_refused h (takeAbort_wrongState hq hp))

end Sys2Proof.Machine
end

section
/-! SUPPORT. The data areas as the host reaches them: the staged table, CONFIGURE and its layout, FLUSH, and the ring
behind the data port; and the statements on them. -/

namespace Sys2Proof.Machine

/-! ### The staged table and CONFIGURE (R129, R130, R131) -/

/-- The sum that CONFIGURE judges, entry by entry. -/
theorem AreaUnit.stagedUnits_eq (u : AreaUnit) : u.stagedUnits =
    u.staged[(0 : Fin 4)].toNat + u.staged[(1 : Fin 4)].toNat + u.staged[(2 : Fin 4)].toNat +
      u.staged[(3 : Fin 4)].toNat := by
  simp only [AreaUnit.stagedUnits, allAreas, List.map_cons, List.map_nil, List.sum_cons, List.sum_nil]
  omega

/-- Each area of the layout starts at the sum of the sizes before it. -/
theorem AreaUnit.layout_areas (u : AreaUnit) :
    let z := fun a : Fin 4 => u.staged[a].toNat
    u.layout[(0 : Fin 4)] = freshArea 0 (64 * z 0) ∧
    u.layout[(1 : Fin 4)] = freshArea (64 * z 0) (64 * z 1) ∧
    u.layout[(2 : Fin 4)] = freshArea (64 * (z 0 + z 1)) (64 * z 2) ∧
    u.layout[(3 : Fin 4)] = freshArea (64 * (z 0 + z 1 + z 2)) (64 * z 3) := by
  simp only [Nat.mul_comm 64, Nat.add_mul]
  exact ⟨rfl, rfl, rfl, rfl⟩

section
variable {v : Byte} {s : State}

theorem exec_stagedSizeWrite {a : Fin 4} (h : s.atReg (.staged a)) : exec (.stagedSizeWrite v) s =
    .next (stepped { s with areas := { s.areas with staged := s.areas.staged.set a v } }) :=
  congrArg Host.Outcome.next (onWrite_taken h rfl rfl rfl rfl)

theorem takeConfigure_inUse (hb : ¬ ∀ a, (s.areaAt a).binding = none) : takeConfigure s = refuse .inUse s :=
  if_pos ((Bool.not_eq_false _).mp (mt s.anyAreaBound_eq_false_iff.mp hb))

/-- With no area bound the total decides (R131). -/
theorem takeConfigure_unbound (hb : ∀ a, (s.areaAt a).binding = none) : takeConfigure s =
    if 64 < s.areas.stagedUnits then refuse .badArgument s
    else accept { s with areas := { s.areas with records := s.areas.layout } } :=
  if_neg (by simp [s.anyAreaBound_eq_false_iff.mpr hb])

/-! ### FLUSH (R135) -/

theorem flushable_iff {r : AreaRecord} : flushable r s = true ↔ r.binding = none ∨ ∃ b, r.binding = some b ∧
    ((s.slotAt b.slot).state = .done ∨ (s.slotAt b.slot).state = .failed) := by
  cases hb : r.binding <;> simp [flushable, hb]

theorem exec_flush_accepted (h : s.atCommand .areas = true) (hf : flushable s.selArea s = true) :
    exec .flush s = .next (answered .areas 2#8 .accepted (s.setArea s.areas.subject s.selArea.emptied)) :=
  congrArg Host.Outcome.next (onCommand_accepted h (if_pos hf) rfl)

theorem exec_flush_inUse (h : s.atCommand .areas = true) (hf : ¬ flushable s.selArea s = true) :
    exec .flush s = .next (answered .areas 2#8 .inUse s) :=
  congrArg Host.Outcome.next (onCommand_refused h (if_neg hf))

end

/-- Settles O42: the staged byte by its write, CONFIGURE by its checks and the layout, FLUSH by what may be flushed. -/
theorem areasStagedConfiguredFlushed : Obligations.AreasStagedConfiguredFlushed := by
  unfold Obligations.AreasStagedConfiguredFlushed
  refine ⟨fun v a s h => exec_stagedSizeWrite h, fun s h => ?_, fun s h => ⟨fun hf => ?_,
    fun b hb hdone hfailed => ?_⟩⟩
  · intro z
    have hunits : s.areas.stagedUnits = z 0 + z 1 + z 2 + z 3 := s.areas.stagedUnits_eq
    refine ⟨fun ⟨a, ha⟩ => ?_, fun hb hover => ?_, fun hb hfit =>
      ⟨{ s with areas := { s.areas with records := s.areas.layout } }, ?_, rfl, s.areas.layout_areas⟩⟩
    · exact congrArg Host.Outcome.next (onCommand_refused h (takeConfigure_inUse fun hb => ha (hb a)))
    · exact congrArg Host.Outcome.next (onCommand_refused h
        ((takeConfigure_unbound hb).trans (if_pos (hunits ▸ hover))))
    · exact congrArg Host.Outcome.next (onCommand_accepted h
        ((takeConfigure_unbound hb).trans (if_neg (hunits ▸ hfit.not_gt))) rfl)
  · exact exec_flush_accepted h (flushable_iff.mpr hf)
  · refine exec_flush_inUse h fun hf => ?_
    simp [flushable_iff, hb, hdone, hfailed] at hf

/-! ### The ring behind the data port (R133, R134) -/

theorem AreaRecord.serves_iff {d : Direction} {r : AreaRecord} :
    r.serves d = true ↔ ∃ b, r.binding = some b ∧ b.direction = d := by
  cases hb : r.binding <;> simp [AreaRecord.serves, hb]

/-- One byte is placed behind the newest one, wrapping at the area's size. -/
theorem AreaRecord.place_byte (r : AreaRecord) (m : Memory) (v : Byte) :
    r.place m [v] = m.write (r.start + (r.oldest + r.fill) % r.size) v := rfl

/-- What a read of the data port finds is the oldest byte. -/
theorem AreaRecord.peek_oldest (r : AreaRecord) (m : Memory) :
    (r.peek m 1).headD 0#8 = m.read (r.start + r.oldest % r.size) := rfl

section
variable {v : Byte} {s : State}

theorem writeDataPort_reading (hr : s.selArea.serves .read = true) : writeDataPort v s = erred .wrongState s :=
  if_pos hr

theorem writeDataPort_full (hr : ¬ s.selArea.serves .read = true) (hf : s.selArea.size ≤ s.selArea.fill) :
    writeDataPort v s = erred .areaFull s :=
  (if_neg hr).trans (if_pos hf)

theorem writeDataPort_appends (hr : ¬ s.selArea.serves .read = true) (hf : s.selArea.fill < s.selArea.size) :
    writeDataPort v s = appendToArea s.areas.subject [v] s :=
  (if_neg hr).trans (if_neg hf.not_ge)

theorem readDataPort_writing (hw : s.selArea.serves .write = true) :
    readDataPort s = (erred .wrongState s).returns 0#8 :=
  if_pos hw

theorem readDataPort_empty (hw : ¬ s.selArea.serves .write = true) (hf : s.selArea.fill = 0) :
    readDataPort s = (erred .areaEmpty s).returns 0#8 :=
  (if_neg hw).trans (if_pos hf)

theorem readDataPort_takes (hw : ¬ s.selArea.serves .write = true) (hf : 0 < s.selArea.fill) :
    readDataPort s = (s.setArea s.areas.subject (s.selArea.consume 1)).returns
      ((s.selArea.peek s.areas.memory 1).headD 0#8) :=
  (if_neg hw).trans (if_neg hf.ne')

/-- INDEX stays at the data port and the read latch is emptied (R181, R182). -/
theorem State.finishAccess_atPort {t : State} (h : s.atReg .dataPort) (ht : s.samePlace t) :
    t.finishAccess = t.emptyLatch :=
  State.finishAccess_kept h.2 rfl ht.1 ht.2

theorem exec_dataPortWrite_closed (h : s.atReg .dataPort) (ha : s.areasInside = true) :
    exec (.dataPortWrite v) s = .next (writeDataPort v s).emptyLatch := by
  rw [exec_dataPortWrite_atPort v h ha, onWrite_eq (c := .dataPort) h rfl,
    State.finishAccess_atPort h (writeDataPort_samePlace v s)]

theorem exec_dataPortRead_closed (h : s.atReg .dataPort) (ha : s.areasInside = true) :
    exec .dataPortRead s = .next (readDataPort s).emptyLatch := by
  rw [exec_dataPortRead_atPort h ha, State.finishAccess_atPort h (readDataPort_samePlace s)]

end

/-- Settles O43: each access closes with INDEX kept, and the checks of the port decide what it does to the ring. -/
theorem dataPortMovesTheRing : Obligations.DataPortMovesTheRing := by
  unfold Obligations.DataPortMovesTheRing
  intro v s h hinside hwf a r close reading writing tail
  have hreading : s.selArea.serves .read = true ↔ reading := AreaRecord.serves_iff
  have hwriting : s.selArea.serves .write = true ↔ writing := AreaRecord.serves_iff
  rw [exec_dataPortWrite_closed h hinside, exec_dataPortRead_closed h hinside]
  refine ⟨fun hr => ?_, fun hr hf => ?_, fun hr hf => ?_, fun hw => ?_, fun hw hf => ?_, fun hw hf => ?_⟩
  · rw [writeDataPort_reading (hreading.mpr hr)]
    rfl
  · rw [writeDataPort_full (mt hreading.mp hr) hf]
    rfl
  · refine ⟨s.areas.memory.write tail v, ?_, Memory.write_wf hwf tail v, Memory.read_write_same hwf tail v,
      fun b hb => Memory.read_write_other hwf v hb⟩
    rw [writeDataPort_appends (mt hreading.mp hr) hf, appendToArea, AreaRecord.place_byte]
    rfl
  · rw [readDataPort_writing (hwriting.mpr hw)]
    rfl
  · rw [readDataPort_empty (mt hwriting.mp hw) hf]
    rfl
  · rw [readDataPort_takes (mt hwriting.mp hw) hf, AreaRecord.peek_oldest]
    rfl

end Sys2Proof.Machine
end

section
/-! SUPPORT. RESUME: its checks, and the slot put back in its phase or behind its module's list; and the statement on
it. -/

namespace Sys2Proof.Machine

section
variable {s : State}

theorem takeResume_wrongState (hx : s.selSlot.state ≠ .aborted) : takeResume s = refuse .wrongState s := if_pos hx

/-- With a recorded phase no module is checked: the slot is in that phase again (R167). -/
theorem takeResume_inPhase (hx : s.selSlot.state = .aborted) (hp : s.selSlot.run.recordedPhase ≠ .none) :
    takeResume s = accept (s.updSlot s.exch.subject fun y =>
      { y.resumed with state := y.run.recordedPhase.state }) :=
  (if_neg (not_not_intro hx)).trans (if_neg hp)

/-- With no recorded phase the module decides (R166). -/
theorem takeResume_noPhase (hx : s.selSlot.state = .aborted) (hp : s.selSlot.run.recordedPhase = .none) :
    takeResume s = if s.moduleTakesSlot s.selSlot = false then refuse .absent s
      else accept (enqueueSlot s.exch.subject (s.updSlot s.exch.subject Slot.resumed)) := by
  simp [takeResume, hx, hp]

/-- A slot changed and queued: its change and QUEUED, every other slot as before. -/
theorem enqueueSlot_updSlot_slotAt (n : Fin 8) (f : Slot → Slot) (s : State) (j : Fin 8) :
    (enqueueSlot n (s.updSlot n f)).slotAt j =
      if j = n then { f (s.slotAt j) with state := .queued } else s.slotAt j := by
  rw [enqueueSlot_slotAt, State.slotAt_updSlot]
  split <;> rfl

/-- A change that keeps the host fields queues the slot at the module they name. -/
theorem enqueueSlot_updSlot_moduleAt {n : Fin 8} {f : Slot → Slot} {k : Fin 30}
    (hf : (f (s.slotAt n)).host = (s.slotAt n).host) (hk : (s.slotAt n).host.moduleAddr.toNat = moduleAddress k)
    (j : Fin 30) : (enqueueSlot n (s.updSlot n f)).moduleAt j =
      if j = k then (s.moduleAt j).append n else s.moduleAt j := by
  rw [enqueueSlot_moduleAt (by rw [State.slotAt_updSlot_same, hf]; exact hk),
    State.moduleAt_congr (s.updSlot_table n f)]

end

/-- Settles O37: RESUME by its checks in their order, the queued slot by the lemmas on a slot changed and queued. -/
theorem resumeByRecordedPhase : Obligations.ResumeByRecordedPhase := by
  unfold Obligations.ResumeByRecordedPhase
  intro s h n x run
  refine ⟨fun hx => ?_, fun p hx hp hsome => ?_, fun k hx hp hk => ?_⟩
  · exact congrArg Host.Outcome.next (onCommand_refused h (takeResume_wrongState hx))
  · subst hp
    exact congrArg Host.Outcome.next (onCommand_accepted h (takeResume_inPhase hx hsome) rfl)
  have hmodule : s.moduleTakesSlot x = (s.moduleAt k).state.takesSlots := State.moduleTakesSlot_eq hk s
  have htake := takeResume_noPhase hx hp
  refine ⟨fun hm => ?_, fun hm => ⟨enqueueSlot n (s.updSlot n Slot.resumed), ?_, ?_, ?_, fun j hj => ?_,
    fun j hj => ?_, by simp⟩⟩
  · exact congrArg Host.Outcome.next (onCommand_refused h (htake.trans (if_pos (hmodule.trans hm))))
  · have htakes : ¬ s.moduleTakesSlot x = false := by simp [hmodule, hm]
    exact congrArg Host.Outcome.next (onCommand_accepted h (htake.trans (if_neg htakes)) (by simp))
  · rw [enqueueSlot_updSlot_slotAt, if_pos rfl]
    rfl
  · rw [enqueueSlot_updSlot_moduleAt rfl hk, if_pos rfl]
    rfl
  · rw [enqueueSlot_updSlot_slotAt, if_neg hj]
  · rw [enqueueSlot_updSlot_moduleAt rfl hk, if_neg hj]

end Sys2Proof.Machine
end

section
/-! SUPPORT. The notice unit: the events and the pulses owed after a raise, the queue and the count after an offer, and
the laws of the unit kept by every effect of every command; and the two statements on them. -/

namespace Sys2Proof.Machine

/-! ### Sets of kinds, bit by bit (R176, R188) -/

/-- The place of a kind's bit in the sets. -/
def EventKind.place : EventKind → Nat
  | .noticeWaiting => 0
  | .cycleEnd => 1
  | .overrun => 2
  | .linkChange => 3
  | .outputExpired => 4
  | .noticeLost => 5
  | .windowError => 6

theorem EventKind.mask_eq_twoPow (k : EventKind) : k.mask = BitVec.twoPow 8 k.place := by cases k <;> rfl

theorem EventKind.place_lt (k : EventKind) : k.place < 8 := by cases k <;> decide

theorem EventKind.place_inj {j k : EventKind} : j.place = k.place ↔ j = k := by cases j <;> cases k <;> decide

/-- Bit 7 is no kind's. -/
theorem EventKind.mask_getLsbD_seven (k : EventKind) : k.mask.getLsbD 7 = false := by cases k <;> rfl

theorem hasKind_eq_getLsbD (set : Byte) (k : EventKind) : hasKind set k = set.getLsbD k.place := by
  have hlt := k.place_lt
  have hone : BitVec.twoPow 8 k.place ≠ 0#8 := fun h => by
    have hbit := congrArg (fun x : Byte => x.getLsbD k.place) h
    simp [hlt] at hbit
  rw [hasKind, k.mask_eq_twoPow, BitVec.and_twoPow]
  split
  · next h => rw [h]; exact bne_iff_ne.mpr hone
  · next h => rw [Bool.eq_false_iff.mpr h]; rfl

/-- A kind entered joins the set, and no other does. -/
theorem hasKind_or_mask (set : Byte) (j k : EventKind) :
    hasKind (set ||| k.mask) j = (hasKind set j || decide (j = k)) := by
  rw [hasKind_eq_getLsbD, hasKind_eq_getLsbD, k.mask_eq_twoPow, BitVec.getLsbD_or, BitVec.getLsbD_twoPow]
  simp [EventKind.place_inj, eq_comm (a := k), k.place_lt]

/-- A kind that is in the set already adds nothing. -/
theorem or_mask_of_hasKind {set : Byte} {k : EventKind} (h : hasKind set k = true) : set ||| k.mask = set := by
  rw [hasKind_eq_getLsbD] at h
  refine BitVec.eq_of_getLsbD_eq fun i hi => ?_
  rw [k.mask_eq_twoPow, BitVec.getLsbD_or, BitVec.getLsbD_twoPow]
  by_cases hik : k.place = i
  · rw [← hik, h, Bool.true_or]
  · simp [hik]

/-! ### A raise (R175, R176, R177) -/

namespace NoticeUnit

section
variable (k : EventKind) (n : NoticeUnit)

@[simp] theorem raise_queue : (n.raise k).queue = n.queue := by unfold raise; split <;> rfl
@[simp] theorem raise_lostCount : (n.raise k).lostCount = n.lostCount := by unfold raise; split <;> rfl
@[simp] theorem raise_overflow : (n.raise k).overflow = n.overflow := by unfold raise; split <;> rfl
@[simp] theorem raise_intEnable : (n.raise k).intEnable = n.intEnable := by unfold raise; split <;> rfl
@[simp] theorem raise_attnEnable : (n.raise k).attnEnable = n.attnEnable := by unfold raise; split <;> rfl

theorem raise_events : (n.raise k).events = n.events ||| k.mask := by
  unfold raise
  split
  · next h => exact (or_mask_of_hasKind h).symm
  · rfl

theorem hasKind_raise (j : EventKind) : hasKind (n.raise k).events j = (hasKind n.events j || decide (j = k)) := by
  rw [raise_events, hasKind_or_mask]

end

section
variable {k : EventKind} {n : NoticeUnit}

theorem raise_pending (h : hasKind n.events k = true) : n.raise k = n := if_pos h

theorem raise_entered (h : hasKind n.events k = false) : n.raise k = n.enter k := if_neg (by simp [h])

/-- An entry of an enabled kind owes one pulse more, up to 15 (R177). -/
theorem owedAfterEntry_eq (k : EventKind) (n : NoticeUnit) : n.owedAfterEntry k =
    if hasKind n.attnEnable k = true ∧ n.attnOwed < 15 then n.attnOwed + 1 else n.attnOwed := by
  simp only [owedAfterEntry, Bool.and_eq_true, decide_eq_true_eq]
  rfl

theorem raise_attnOwed_le (k : EventKind) (h : n.attnOwed ≤ 15) : (n.raise k).attnOwed ≤ 15 := by
  cases hk : hasKind n.events k with
  | true => rwa [raise_pending hk]
  | false =>
    rw [raise_entered hk]
    change n.owedAfterEntry k ≤ 15
    rw [owedAfterEntry_eq]
    split <;> omega

/-- INT follows the entry; without an entry nothing moves. -/
theorem raise_intLine (k : EventKind) (h : n.intLine = n.intLevel) : (n.raise k).intLine = (n.raise k).intLevel := by
  cases hk : hasKind n.events k with
  | true => rwa [raise_pending hk]
  | false => rw [raise_entered hk]; rfl

/-! ### An offer (R171, R172, R173) -/

/-- The queue with one record more, behind the others. -/
def append (cycle : Half) (body : NoticeBody) (n : NoticeUnit) : NoticeUnit :=
  { n with queue := n.queue ++ [{ body := body, cycle := cycle }] }

variable {cycle : Half} {body : NoticeBody}

theorem append_first (h : n.queue = []) :
    n.append cycle body = { n with queue := [{ body := body, cycle := cycle }] } := by
  rw [append, h, List.nil_append]

theorem offer_first (h : n.queue = []) : n.offer cycle body = (n.append cycle body).raise .noticeWaiting := by
  simp [offer, append, h, Config.noticeCapacity]

theorem offer_behind (h : n.queue ≠ []) (hroom : n.queue.length < 32) :
    n.offer cycle body = n.append cycle body := by
  simp [offer, append, h, hroom, Config.noticeCapacity]

theorem offer_full (h : 32 ≤ n.queue.length) : n.offer cycle body = n.lose := if_neg (Nat.not_lt.mpr h)

theorem lose_first (h : n.lostCount = 0) : n.lose = { n.raise .noticeLost with lostCount := 1 } := by
  simp [lose, h, Config.lostCountMax]

theorem lose_counted (h : 0 < n.lostCount) (hmax : n.lostCount < 255) :
    n.lose = { n with lostCount := n.lostCount + 1 } := by
  simp [lose, Nat.ne_of_gt h, hmax, Config.lostCountMax]

theorem lose_overflow (h : 255 ≤ n.lostCount) : n.lose = { n with overflow := true } := by
  simp [lose, show n.lostCount ≠ 0 by omega, Nat.not_lt.mpr h, Config.lostCountMax]

/-! ### The laws, operation by operation -/

/-- NOTICE_WAITING stands for a queue that is not empty (R175). -/
def waitingAgrees (n : NoticeUnit) : Prop := hasKind n.events .noticeWaiting = true ↔ n.queue ≠ []

/-- The laws of the unit but that of NOTICE_WAITING: the counts (R172, R173, R177), the sets and INT (R176). -/
structure Sound (n : NoticeUnit) : Prop where
  queue_le : n.queue.length ≤ 32
  lost_le : n.lostCount ≤ 255
  lost_of_overflow : n.overflow = true → n.lostCount = 255
  owed_le : n.attnOwed ≤ 15
  events_spare : n.events.getLsbD 7 = false
  intEnable_spare : n.intEnable.getLsbD 7 = false
  attnEnable_spare : n.attnEnable.getLsbD 7 = false
  int_eq : n.intLine = n.intLevel

theorem lawful_iff (n : NoticeUnit) : n.lawful ↔ n.Sound ∧ n.waitingAgrees :=
  ⟨fun ⟨hqueue, hlost, hover, howed, hwait, hev, hint, hattn, hline⟩ =>
    ⟨⟨hqueue, hlost, hover, howed, hev, hint, hattn, hline⟩, hwait⟩,
   fun ⟨⟨hqueue, hlost, hover, howed, hev, hint, hattn, hline⟩, hwait⟩ =>
    ⟨hqueue, hlost, hover, howed, hwait, hev, hint, hattn, hline⟩⟩

theorem Sound.raise (k : EventKind) (h : n.Sound) : (n.raise k).Sound where
  queue_le := by rw [raise_queue]; exact h.queue_le
  lost_le := by rw [raise_lostCount]; exact h.lost_le
  lost_of_overflow := by rw [raise_overflow, raise_lostCount]; exact h.lost_of_overflow
  owed_le := raise_attnOwed_le k h.owed_le
  events_spare := by rw [raise_events, BitVec.getLsbD_or, h.events_spare, k.mask_getLsbD_seven]; rfl
  intEnable_spare := by rw [raise_intEnable]; exact h.intEnable_spare
  attnEnable_spare := by rw [raise_attnEnable]; exact h.attnEnable_spare
  int_eq := raise_intLine k h.int_eq

theorem waitingAgrees_raise {k : EventKind} (hk : k ≠ .noticeWaiting) (h : n.waitingAgrees) :
    (n.raise k).waitingAgrees := by
  rw [waitingAgrees, hasKind_raise, raise_queue, decide_eq_false hk.symm, Bool.or_false]
  exact h

theorem lawful_raise {k : EventKind} (hk : k ≠ .noticeWaiting) (h : n.lawful) : (n.raise k).lawful := by
  obtain ⟨hsound, hwait⟩ := (lawful_iff n).mp h
  exact (lawful_iff _).mpr ⟨hsound.raise k, waitingAgrees_raise hk hwait⟩

theorem Sound.append (h : n.Sound) (hroom : n.queue.length < 32) : (n.append cycle body).Sound :=
  { h with queue_le := by simpa [NoticeUnit.append] using Nat.succ_le_of_lt hroom }

/-- A queue that takes a record is not empty, so the record's own raise or the one before it stands. -/
theorem lawful_offer_room (h : n.lawful) (hroom : n.queue.length < 32) : (n.offer cycle body).lawful := by
  obtain ⟨hsound, hwait⟩ := (lawful_iff n).mp h
  by_cases hq : n.queue = []
  · rw [offer_first hq, lawful_iff]
    refine ⟨(hsound.append hroom).raise _, ?_⟩
    rw [waitingAgrees, hasKind_raise, raise_queue]
    simp [NoticeUnit.append]
  · rw [offer_behind hq hroom, lawful_iff]
    refine ⟨hsound.append hroom, iff_of_true (hwait.mpr hq) ?_⟩
    simp [NoticeUnit.append]

/-- The loss is counted below 255, where the overflow flag is clear, and flagged at 255 (R173). -/
theorem lawful_lose (h : n.lawful) : n.lose.lawful := by
  obtain ⟨hsound, hwait⟩ := (lawful_iff n).mp h
  have hclear : n.lostCount < 255 → n.overflow ≠ true := fun hlt ho => by
    have := hsound.lost_of_overflow ho
    omega
  by_cases hfirst : n.lostCount = 0
  · obtain ⟨hraised, hagrees⟩ := (lawful_iff _).mp (lawful_raise (k := .noticeLost) (by decide) h)
    rw [lose_first hfirst, lawful_iff]
    exact ⟨{ hraised with
      lost_le := (by decide : 1 ≤ 255)
      lost_of_overflow := fun ho => absurd (by simpa using ho) (hclear (by omega)) }, hagrees⟩
  by_cases hmax : n.lostCount < 255
  · rw [lose_counted (Nat.pos_of_ne_zero hfirst) hmax, lawful_iff]
    exact ⟨{ hsound with
      lost_le := hmax
      lost_of_overflow := fun ho => absurd ho (hclear hmax) }, hwait⟩
  · rw [lose_overflow (Nat.not_lt.mp hmax), lawful_iff]
    exact ⟨{ hsound with lost_of_overflow := fun _ => Nat.le_antisymm hsound.lost_le (Nat.not_lt.mp hmax) }, hwait⟩

theorem lawful_offer (cycle : Half) (body : NoticeBody) (h : n.lawful) : (n.offer cycle body).lawful := by
  rcases Nat.lt_or_ge n.queue.length 32 with hroom | hfull
  · exact lawful_offer_room h hroom
  · rw [offer_full hfull]
    exact lawful_lose h

theorem lawful_reset : NoticeUnit.reset.lawful := by
  unfold lawful
  decide

/-! ### The laws under the unit's own commands -/

/-- Kinds taken out of the pending set, with INT following (R175, R176). -/
theorem Sound.without (removed : Byte) (h : n.Sound) :
    ({ n with events := n.events &&& ~~~removed } : NoticeUnit).syncInt.Sound :=
  { h with
    events_spare := by
      rw [syncInt, BitVec.getLsbD_and, h.events_spare, Bool.false_and]
    int_eq := rfl }

/-- The last record takes NOTICE_WAITING along; with a record behind the head both stay (R174, R175). -/
theorem lawful_pop (h : n.lawful) : n.pop.lawful := by
  obtain ⟨hsound, hwait⟩ := (lawful_iff n).mp h
  rcases hq : n.queue with _ | ⟨r, _ | ⟨r', rest⟩⟩
  · rw [pop, hq]
    exact h
  · have hempty : ({ n with queue := [] } : NoticeUnit).Sound := { hsound with queue_le := Nat.zero_le 32 }
    have hpop : n.pop = ({ n with queue := [] } : NoticeUnit).dropWaiting := by rw [pop, hq]
    rw [hpop, lawful_iff]
    refine ⟨hempty.without _, iff_of_false (Bool.eq_false_iff.mp ?_) (not_not_intro rfl)⟩
    rw [hasKind_eq_getLsbD]
    simp [dropWaiting, syncInt, EventKind.place, EventKind.mask]
  · rw [pop_head hq, lawful_iff]
    have hlen := hsound.queue_le
    rw [hq] at hlen
    exact ⟨{ hsound with queue_le := Nat.le_of_succ_le hlen },
      iff_of_true (hwait.mpr (by simp [hq])) (List.cons_ne_nil r' rest)⟩

/-- The clearing register names no NOTICE_WAITING (R175). -/
theorem lawful_clearNamed (v : Byte) (h : n.lawful) : (n.clearNamed v).lawful := by
  obtain ⟨hsound, hwait⟩ := (lawful_iff n).mp h
  have hkept : hasKind (n.clearNamed v).events .noticeWaiting = hasKind n.events .noticeWaiting := by
    rw [hasKind_eq_getLsbD, hasKind_eq_getLsbD]
    simp [clearNamed, syncInt, EventKind.place]
  refine (lawful_iff _).mpr ⟨hsound.without _, ?_⟩
  rw [waitingAgrees, hkept]
  exact hwait

theorem enableByte_getLsbD_seven (v : Byte) : (enableByte v).getLsbD 7 = false := by simp [enableByte]

theorem lawful_setIntEnable (v : Byte) (h : n.lawful) : (n.setIntEnable v).lawful := by
  obtain ⟨hsound, hwait⟩ := (lawful_iff n).mp h
  exact (lawful_iff _).mpr ⟨{ hsound with intEnable_spare := enableByte_getLsbD_seven v, int_eq := rfl }, hwait⟩

theorem lawful_setAttnEnable (v : Byte) (h : n.lawful) : (n.setAttnEnable v).lawful := by
  obtain ⟨hsound, hwait⟩ := (lawful_iff n).mp h
  exact (lawful_iff _).mpr ⟨{ hsound with attnEnable_spare := enableByte_getLsbD_seven v }, hwait⟩

theorem lawful_clearLost (h : n.lawful) : ({ n with lostCount := 0, overflow := false } : NoticeUnit).lawful := by
  obtain ⟨hsound, hwait⟩ := (lawful_iff n).mp h
  exact (lawful_iff _).mpr
    ⟨{ hsound with lost_le := Nat.zero_le 255, lost_of_overflow := fun ho => absurd ho Bool.false_ne_true }, hwait⟩

theorem lawful_pulse (line : Bool) {owed : Nat} (ho : owed ≤ n.attnOwed) (h : n.lawful) :
    ({ n with attnLine := line, attnOwed := owed } : NoticeUnit).lawful := by
  obtain ⟨hsound, hwait⟩ := (lawful_iff n).mp h
  exact (lawful_iff _).mpr ⟨{ hsound with owed_le := ho.trans hsound.owed_le }, hwait⟩

/-- Offers and raises keep the laws; so every shared operation does. -/
theorem lawful_keptByNotices : KeptByNotices lawful :=
  ⟨fun c b _ h => lawful_offer c b h, fun _ _ hk h => lawful_raise hk h⟩

end

end NoticeUnit

/-! ### The commands that offer and raise -/

namespace KeptByNotices

variable {P : NoticeUnit → Prop} {s : State}

theorem startLink (h : KeptByNotices P) (hs : P s.notices) : P (startLink s).notices :=
  h.changeLink .checking .command
    (s := drivePair { s with line := { s.line with bitRate := s.link.bitRate, replyWindow := s.link.replyWindow } }) hs

theorem stopLink (h : KeptByNotices P) (hs : P s.notices) : P (stopLink s).notices := by
  have hc : P (Machine.changeLink .stopping .command s).notices := h.changeLink _ _ hs
  unfold Machine.stopLink
  dsimp only
  split
  exacts [h.stopDone hc, hc]

theorem cutTxn (h : KeptByNotices P) (hs : P s.notices) : P (cutTxn s).notices := by
  unfold Machine.cutTxn
  split
  exacts [h.routeOutcome _ _ hs, hs]

theorem abortQueued (h : KeptByNotices P) (n : Fin 8) (hs : P s.notices) : P (abortQueued n s).notices := by
  rw [abortQueued_notices]
  exact h.1 _ _ _ hs

theorem afterExpiry (h : KeptByNotices P) (hs : P s.notices) : P (afterExpiry s).notices := by
  unfold Machine.afterExpiry
  split
  · split
    · exact hs
    · split
      exacts [h.overrunCut _ hs, h.overrunCut _ hs, h.cycleStart _ hs, h.cycleStart _ hs, h.cycleStart _ hs, hs]
  all_goals exact hs

end KeptByNotices

/-! ### Every effect -/

/-- The notice unit of the state is lawful. -/
def State.noticesLawful (s : State) : Prop := s.notices.lawful

theorem State.noticesLawful_frame {s t : State} (hn : t.notices = s.notices) (h : s.noticesLawful) :
    t.noticesLawful := by
  rw [noticesLawful, hn]
  exact h

section
open NoticeUnit

/-- Every effect of every command keeps the laws of the notice unit. -/
theorem noticesLawful_kept : KeptByEffects State.noticesLawful where
  powerOn _ _ := lawful_reset
  platform _ _ := lawful_reset
  window _ _ h := h
  pending _ _ h := h
  windowEvent _ h := lawful_keptByNotices.raise (by decide) h
  plain v r s h := State.noticesLawful_frame (by simp) h
  start _ h _ := lawful_keptByNotices.startLink h
  run s h _ := lawful_keptByNotices.cycleStart false (s := changeLink .running .command s)
    (lawful_keptByNotices.changeLink _ _ h)
  stop _ h _ := lawful_keptByNotices.stopLink h
  shutdown _ h _ := lawful_keptByNotices.enterOff (lawful_keptByNotices.cutTxn h)
  linkConfig v r s h _ := State.noticesLawful_frame (by simp) h
  cycleLength v r s h _ := State.noticesLawful_frame (by simp) h
  scanList v r s h _ := State.noticesLawful_frame (by simp) h
  searchVacant _ _ h _ := h
  moduleField _ _ _ h _ := h
  expect _ h _ _ := h
  adopt _ h _ _ _ := h
  forget _ h _ _ := h
  disable _ h _ _ := h
  enable _ h _ := h
  staging v r s h := State.noticesLawful_frame (by simp) h
  imageFlags _ _ h _ _ _ _ _ _ := h
  slotField _ _ _ h _ := h
  limit v r s h _ := State.noticesLawful_frame (by simp) h
  post s h _ _ _ _ := State.noticesLawful_frame (by simp) h
  retire s h _ := State.noticesLawful_frame (by simp) h
  restart s h _ _ := State.noticesLawful_frame (by simp) h
  abortQueued _ h _ := lawful_keptByNotices.abortQueued _ h
  abortInFlight _ h _ _ := h
  abortInPhase _ h _ _ := lawful_keptByNotices.abortInPhase _ h
  resumeQueued s h _ _ _ := State.noticesLawful_frame (by simp) h
  resumePhase _ h _ _ := h
  staged v r s h := State.noticesLawful_frame (by simp) h
  configure _ h _ _ := h
  flush _ h _ := h
  portWrite _ _ h _ _ _ := h
  portRead _ h _ _ _ := h
  pop _ h _ := lawful_pop h
  clearLost _ h := lawful_clearLost h
  clearing v _ h := lawful_clearNamed v h
  intEnable v _ h := lawful_setIntEnable v h
  attnEnable v _ h := lawful_setAttnEnable v h
  pulseStart _ h _ := lawful_pulse true (Nat.sub_le _ 1) h
  pulseEnd _ h := lawful_pulse false (Nat.le_refl _) h
  checkPassed s h _ := lawful_keptByNotices.changeLink .idle .checkPassed
    (s := { s with link := { s.link with highSamples := Config.lineCheckSamples } }) h
  checkFailed highs s h _ :=
    lawful_keptByNotices.enterFault .lineHeld (s := { s with link := { s.link with highSamples := highs } }) h
  expiry _ s h _ := lawful_keptByNotices.afterExpiry (s := { s with sched := { s.sched with timer := .expired } }) h
  gap _ _ h _ _ := h
  settle _ _ _ _ _ h _ _ := h
  await _ _ _ h _ _ _ := h
  receive _ _ _ h _ _ := h
  markEnd t d order s h _ _ _ _ _ := lawful_keptByNotices.endTxn t _ order
    (s := { s.elapse d with line := { (s.elapse d).line with echoFaults := 0 } }) h
  txnEnd t o d order s h _ _ _ _ _ _ := lawful_keptByNotices.endTxn t o order (s := s.elapse d) h
  due _ h _ _ _ := lawful_keptByNotices.nextDecision h

end

/-- Settles O56: offers, raises and the unit's own commands keep its laws, and a step does nothing else to the unit. -/
theorem noticeLawsKept : Obligations.NoticeLawsKept := by
  unfold Obligations.NoticeLawsKept
  intro s t hlawful hstep
  exact step_keeps noticesLawful_kept hlawful hstep

/-- Settles O44: the offer by the room in the queue and the losses so far, the raise by the pending set. -/
theorem noticesQueuedAndPulsesOwed : Obligations.NoticesQueuedAndPulsesOwed := by
  unfold Obligations.NoticesQueuedAndPulsesOwed
  refine ⟨fun b s => ⟨fun hempty => ?_, NoticeUnit.offer_behind, fun hfull => ?_⟩,
    fun k n => ⟨NoticeUnit.raise_pending, fun hk => ⟨n.raise_events k, ?_⟩⟩, fun s hlow howed => ?_, fun s => rfl⟩
  · rw [State.offer_notices, NoticeUnit.offer_first hempty, NoticeUnit.append_first hempty]
  · rw [State.offer_notices, NoticeUnit.offer_full hfull]
    exact ⟨NoticeUnit.lose_first, NoticeUnit.lose_counted, NoticeUnit.lose_overflow⟩
  · rw [NoticeUnit.raise_entered hk]
    exact n.owedAfterEntry_eq k
  · have hgiven : (!s.notices.attnLine && decide (0 < s.notices.attnOwed)) = true := by simp [hlow, howed]
    exact congrArg Host.Outcome.next (if_pos hgiven)

end Sys2Proof.Machine
end

section
/-! SUPPORT. What the registers read as: the registers at the indexes of each unit's map, and their values by the map;
and the statement on them. -/

namespace Sys2Proof.Machine

/-! ### The registers at the indexes of a map (Tables 11-4 to 11-6) -/

/-- A register of one byte that stands alone in its map and does not depend on the head of the notice queue. -/
def Reg.standsAlone : Reg → Bool
  | .byte .headKind | .byte .headSubject => false
  | .byte _ | .staged _ => true
  | _ => false

/-- The registers of one byte of a unit past RESULT, SUBJECT first, each with its index. -/
def UnitId.byteRegs (u : UnitId) : List (Nat × Reg) :=
  (if u.hasSubject then [(2, Reg.subject u)] else []) ++ (unitMap u).filter (·.2.standsAlone)

/-- The 16-bit fields of a unit, each with the index of its low byte. -/
def UnitId.wideFields (u : UnitId) : List (Nat × Field16) :=
  (unitMap u).filterMap fun e => match e.2 with
    | .lo f => some (e.1, f)
    | _ => none

theorem regAt_of_mem_byteRegs (u : UnitId) : ∀ e ∈ u.byteRegs, regAt u e.1 = some e.2 := by cases u <;> decide

theorem regAt_of_mem_wideFields (u : UnitId) :
    ∀ e ∈ u.wideFields, regAt u e.1 = some (.lo e.2) ∧ regAt u (e.1 + 1) = some (.hi e.2) := by cases u <;> decide

theorem regAt_scanEntry (j : Fin 32) : regAt .cycle (0x40 + j) = some (.scanEntry j) := by revert j; decide

theorem regAt_waitingEntry (j : Fin 8) : regAt .modules (0x20 + j) = some (.waitingEntry j) := by revert j; decide

theorem regAt_heldAge (k : Fin 30) : regAt .image (0x20 + k) = some (.heldAge k) := by revert k; decide

theorem regAt_imageByte (j : Fin 64) : regAt .image (0x40 + j) = some (.imageByte j) := by revert j; decide

theorem regAt_blockByte (j : Fin 16) : regAt .slots (0x20 + j) = some (.blockByte j) := by revert j; decide

theorem regAt_headField (j : Fin 8) : regAt .notices (0xC + j) = some (.headField j) := by revert j; decide

/-! ### Values by the map -/

section
variable {s : State}

theorem State.byteAt_eq {u : UnitId} {i : Nat} {r : Reg} (h : regAt u i = some r) :
    s.byteAt u i = some (regValue s r) := congrArg (Option.map (regValue s)) h

/-- The values of the one-byte registers of some units, each with its unit and index. -/
def State.readings (s : State) (us : List UnitId) : List (UnitId × Nat × Byte) :=
  us.flatMap fun u => u.byteRegs.map fun e => (u, e.1, regValue s e.2)

/-- The values of the 16-bit fields of some units, each with its unit and the index of its low byte. -/
def State.wideReadings (s : State) (us : List UnitId) : List (UnitId × Nat × Half) :=
  us.flatMap fun u => u.wideFields.map fun e => (u, e.1, fieldValue s e.2)

theorem State.byteAt_of_mem_readings (us : List UnitId) :
    ∀ e ∈ s.readings us, s.byteAt e.1 e.2.1 = some e.2.2 := by
  simp only [State.readings, List.mem_flatMap, List.mem_map]
  rintro _ ⟨u, -, e, he, rfl⟩
  exact State.byteAt_eq (regAt_of_mem_byteRegs u e he)

theorem State.byteAt_of_mem_wideReadings (us : List UnitId) : ∀ e ∈ s.wideReadings us,
    s.byteAt e.1 e.2.1 = some (loByte e.2.2) ∧ s.byteAt e.1 (e.2.1 + 1) = some (hiByte e.2.2) := by
  simp only [State.wideReadings, List.mem_flatMap, List.mem_map]
  rintro _ ⟨u, -, e, he, rfl⟩
  obtain ⟨hlo, hhi⟩ := regAt_of_mem_wideFields u e he
  exact ⟨State.byteAt_eq hlo, State.byteAt_eq hhi⟩

/-! ### The head of the notice queue (R171, Table 11-8) -/

/-- The indexes of the head's fields: kind, subject, cycle number, and the eight further fields. -/
theorem headIndex_cases {j : Nat} (hlow : 8 ≤ j) (hhigh : j ≤ 0x13) :
    j = 8 ∨ j = 9 ∨ j = 0xA ∨ j = 0xB ∨ ∃ k : Fin 8, j = 0xC + k := by
  rcases Nat.lt_or_ge j 0xC with h | h
  · omega
  · exact .inr (.inr (.inr (.inr ⟨⟨j - 0xC, by omega⟩, (Nat.add_sub_cancel' h).symm⟩)))

/-- With no record in the queue the head's fields read 0. -/
theorem State.byteAt_head_empty (hq : s.notices.queue = []) {j : Nat} (hlow : 8 ≤ j) (hhigh : j ≤ 0x13) :
    s.byteAt .notices j = some 0#8 := by
  obtain rfl | rfl | rfl | rfl | ⟨k, rfl⟩ := headIndex_cases hlow hhigh
  · rw [State.byteAt_eq (r := .byte .headKind) rfl, regValue, byteValue, hq]
  · rw [State.byteAt_eq (r := .byte .headSubject) rfl, regValue, byteValue, hq]
  · rw [State.byteAt_eq (r := .lo .headCycle) rfl, regValue, fieldValue, hq]
    rfl
  · rw [State.byteAt_eq (r := .hi .headCycle) rfl, regValue, fieldValue, hq]
    rfl
  · rw [State.byteAt_eq (regAt_headField k), regValue, hq]

/-- The fields of the record at the head of the queue, at their indexes. -/
theorem State.byteAt_head {h : Notice} {rest : List Notice} (hq : s.notices.queue = h :: rest) :
    s.byteAt .notices 8 = some h.body.kindCode ∧ s.byteAt .notices 9 = some h.body.subject ∧
    s.byteAt .notices 0xA = some (loByte h.cycle) ∧ s.byteAt .notices 0xB = some (hiByte h.cycle) ∧
    ∀ j : Fin 8, s.byteAt .notices (0xC + j) = some (h.body.further.getD j 0#8) := by
  refine ⟨?_, ?_, ?_, ?_, fun j => ?_⟩
  · rw [State.byteAt_eq (r := .byte .headKind) rfl, regValue, byteValue, hq]
  · rw [State.byteAt_eq (r := .byte .headSubject) rfl, regValue, byteValue, hq]
  · rw [State.byteAt_eq (r := .lo .headCycle) rfl, regValue, fieldValue, hq]
  · rw [State.byteAt_eq (r := .hi .headCycle) rfl, regValue, fieldValue, hq]
  · rw [State.byteAt_eq (regAt_headField j), regValue, hq]

end

/-! ### The code of a binding (Table 11-7) -/

/-- The code of a binding's direction: 1 WRITE, 2 READ (Table 11-7). -/
def Direction.code : Direction → Byte
  | .write => 1#8
  | .read => 2#8

theorem Direction.ite_code (d : Direction) : (if d = .write then 1#8 else 2#8) = d.code := by cases d <;> rfl

/-- Settles O12: the lists of the statement are the values by the maps, the ranges go index by index, and the codes are
those of the tables. -/
theorem registerValuesAndCodes : Obligations.RegisterValuesAndCodes := by
  unfold Obligations.RegisterValuesAndCodes
  refine ⟨fun s => ?_, fun n st c ab k m1 m2 mc o w cut l1 l2 lc => rfl, rfl, rfl, rfl, rfl, rfl, rfl, rfl,
    fun _ _ => rfl, rfl, rfl, rfl, fun _ _ => rfl, rfl, rfl, rfl, rfl, rfl⟩
  intro m x r i flag num wide
  refine ⟨?_, ?_, ?_, ?_, fun j => State.byteAt_eq (regAt_scanEntry j), fun j => State.byteAt_eq (regAt_waitingEntry j),
    fun k => State.byteAt_eq (regAt_heldAge k), fun j => State.byteAt_eq (regAt_imageByte j),
    fun j => State.byteAt_eq (regAt_blockByte j), fun u => ⟨rfl, rfl⟩, fun hq j => State.byteAt_head_empty hq,
    fun h rest => State.byteAt_head⟩
  · exact State.byteAt_of_mem_readings (s := s) [.global, .link, .cycle]
  · exact State.byteAt_of_mem_readings (s := s) [.modules, .image]
  · simp only [Direction.ite_code]
    exact State.byteAt_of_mem_readings (s := s) [.slots, .areas, .notices]
  · exact State.byteAt_of_mem_wideReadings (s := s) [.global, .cycle, .modules, .image, .slots, .areas]

end Sys2Proof.Machine
end

section
/-! SUPPORT. The part while PRST# is asserted: what its platform-reset values leave the commands to act on, and that no
command but the two of the reset acts; and the statement on them. -/

namespace Sys2Proof.Machine

/-- Where nothing in the part can move: PRST# is asserted, the byte last returned is 00h, and there is no link, no
transaction in flight, no running timer and no ATTN pulse to act on (R186, log entry 3). -/
structure State.heldInReset (s : State) : Prop where
  prst : s.window.prst = true
  dataOut : s.window.dataOut = 0#8
  link : s.link.state = .off
  txn : s.line.txn = none
  timer : s.sched.timer = .stopped
  attnLine : s.notices.attnLine = false
  attnOwed : s.notices.attnOwed = 0

theorem platformValues_heldInReset (s : State) : (platformValues s).heldInReset := ⟨rfl, rfl, rfl, rfl, rfl, rfl, rfl⟩

/-! ### Host accesses while PRST# is asserted -/

section
variable {s : State}

theorem onWrite_inReset {c : WriteClass} {f : Reg → State → State} (h : s.window.prst = true) : onWrite c f s = s :=
  onWrite_cases (P := (· = s)) rfl fun _ ⟨hoff, _⟩ _ => by simp [h] at hoff

theorem onCommand_inReset {u : UnitId} {code : Byte} {take : State → Taken} (h : s.window.prst = true) :
    onCommand u code take s = s :=
  onCommand_off (by simp [State.atCommand, h])

namespace State.heldInReset

theorem readInReset (h : s.heldInReset) : s.readInReset = s := by
  rw [State.readInReset, State.returns, ← h.dataOut]

theorem accessInReset (h : s.heldInReset) (a : Access) : accessInReset a s = s := by
  cases a with
  | read => exact h.readInReset
  | write v => rfl

/-! ### Events of the line -/

theorem txnIn (h : s.heldInReset) (p : TxnPhase) : s.txnIn p = none := by
  rw [State.txnIn, h.txn]
  rfl

/-! ### Every command -/

/-- No command but the two that move the reset changes anything: a host access meets PRST#, and every other event finds
nothing to act on. -/
theorem exec_eq (h : s.heldInReset) {c : Instr} (hon : c ≠ .powerOnReset) (hreset : c ≠ .platformReset)
    (hrelease : c ≠ .platformResetRelease) : exec c s = .next s := by
  cases c with
  | powerOnReset => exact absurd rfl hon
  | platformReset => exact absurd rfl hreset
  | platformResetRelease => exact absurd rfl hrelease
  | unitWrite | indexWrite => exact congrArg Host.Outcome.next (if_pos h.prst)
  | noUnitAccess a | noIndexAccess a =>
    exact congrArg Host.Outcome.next ((if_pos h.prst).trans (h.accessInReset a))
  | lowByteRead | registerRead => exact congrArg Host.Outcome.next ((if_pos h.prst).trans h.readInReset)
  | dataPortRead => exact (if_pos h.prst).trans (congrArg Host.Outcome.next h.readInReset)
  | dataPortWrite v => exact if_neg (by simp [State.atDataPort, h.prst])
  | registerWrite v =>
    refine congrArg Host.Outcome.next ?_
    split
    exacts [onWrite_inReset h.prst, onWrite_inReset h.prst]
  | linkConfigWrite | cycleLengthWrite | scanListWrite | searchVacantWrite | moduleFieldWrite | stagingWrite
  | followWrite | commitDeadlineWrite | slotFieldWrite | exchangeLimitWrite | stagedSizeWrite
  | clearingRegisterWrite | intEnableWrite | attnEnableWrite =>
    exact congrArg Host.Outcome.next (onWrite_inReset h.prst)
  | unknownCommand code =>
    refine congrArg Host.Outcome.next ?_
    split
    · split
      exacts [rfl, onCommand_inReset h.prst]
    all_goals rfl
  | clearError | start | run | stop | shutdown | expect | adopt | forget | disable | enable | commit | snapshot
  | freeze | release | post | retire | restart | abort | resume | configure | flush | pop | clearLost =>
    exact congrArg Host.Outcome.next (onCommand_inReset h.prst)
  | lineCheckComplete => exact congrArg Host.Outcome.next (if_neg (by simp [h.link]))
  | lineCheckFailed highs => exact congrArg Host.Outcome.next (if_neg (by simp [h.link]))
  | cycleTimerExpiry => simp only [exec, execCycleTimerExpiry, h.timer]
  | gapElapsed => simp only [exec, execGapElapsed, h.txnIn]
  | requestEchoed => simp only [exec, execRequestEchoed, h.txnIn]
  | echoMismatch => simp only [exec, execEchoMismatch, h.txnIn]
  | replyWindowExpiry => simp only [exec, execReplyWindowExpiry, h.txnIn]
  | replyStart => simp only [exec, execReplyStart, h.txnIn]
  | receiveFault => simp only [exec, execReceiveFault, h.txnIn]
  | quietLimitExpiry => simp only [exec, execQuietLimitExpiry, h.txnIn]
  | settlingEnd => simp only [exec, execSettlingEnd, h.txnIn]
  | replyReceived => simp only [exec, execReplyReceived, h.txnIn]
  | attnPulseStart => exact congrArg Host.Outcome.next (if_neg (by simp [h.attnOwed]))
  | attnPulseEnd => simp only [exec, execAttnPulseEnd, ← h.attnLine]

end State.heldInReset

end

/-! ### The reset over a part in reset -/

theorem ModuleState.linkDown_linkDown (st : ModuleState) : st.linkDown.linkDown = st.linkDown := by cases st <;> rfl

theorem ModuleRecord.platformReset_platformReset (m : ModuleRecord) : m.platformReset.platformReset = m.platformReset :=
  congrArg (fun st => { m.platformReset with state := st }) m.state.linkDown_linkDown

theorem AreaRecord.platformReset_platformReset (r : AreaRecord) : r.platformReset.platformReset = r.platformReset := rfl

theorem mapVec_mapVec_of_idem {α : Type} {n : Nat} {f : α → α} (hf : ∀ x, f (f x) = f x) (v : Vector α n) :
    mapVec f (mapVec f v) = mapVec f v :=
  Vector.ext fun i hi => by rw [mapVec_get, mapVec_get, hf]

/-- PLATFORM_RESET finds its own values and leaves them (R186). -/
theorem platformValues_platformValues (s : State) : platformValues (platformValues s) = platformValues s := by
  have htable : (platformValues (platformValues s)).table = (platformValues s).table :=
    congrArg (ModuleTable.mk 0) (mapVec_mapVec_of_idem ModuleRecord.platformReset_platformReset s.table.records)
  have hareas : (platformValues (platformValues s)).areas = (platformValues s).areas :=
    congrArg (fun rs => { s.areas with subject := 0, records := rs })
      (mapVec_mapVec_of_idem AreaRecord.platformReset_platformReset s.areas.records)
  calc platformValues (platformValues s)
    _ = { platformValues s with
          table := (platformValues (platformValues s)).table
          areas := (platformValues (platformValues s)).areas } := rfl
    _ = platformValues s := by rw [htable, hareas]

/-- The command and result registers of the reset window (R183). -/
theorem RegisterWindow.reset_answers (u : Fin 8) :
    RegisterWindow.reset.commands[u] = 0#8 ∧ RegisterWindow.reset.results[u] = .none := by
  revert u
  decide

/-- Settles O6: the platform-reset values hold the part still, a second reset writes the same values, and the release
moves the pin alone. -/
theorem platformResetHoldsThePart : Obligations.PlatformResetHoldsThePart := by
  unfold Obligations.PlatformResetHoldsThePart
  refine fun s => ⟨_, _, rfl, rfl, rfl, rfl, rfl, rfl, fun c hon hrelease => ?_, rfl, rfl, rfl, rfl, rfl, rfl,
    RegisterWindow.reset_answers, rfl, rfl⟩
  by_cases hreset : c = .platformReset
  · subst hreset
    exact congrArg Host.Outcome.next (platformValues_platformValues s)
  · exact (platformValues_heldInReset s).exec_eq hon hreset hrelease

end Sys2Proof.Machine
end

section
/-! SUPPORT. Writes of the UNIT and INDEX ports, and DATA accesses with no unit or no register selected; and the
statement on them. -/

namespace Sys2Proof.Machine

section
variable {s : State} {c : WindowCause}

/-- A DATA write where no register is selected: the window error, and INDEX one further (R181, R184). -/
theorem missAccess_write (v : Byte) (h : s.window.indexStays = false) :
    missAccess c (.write v) s = stepped (erred c s) :=
  State.finishAccess_off (t := s.windowError c) h

/-- A DATA read where no register is selected: as a write, and 00h (R180, R181). -/
theorem missAccess_read (h : s.window.indexStays = false) :
    missAccess c .read s = (stepped (erred c s)).returns 0#8 :=
  State.finishAccess_off (t := (s.windowError c).returns 0#8) h

theorem exec_noUnitAccess (a : Access) (hp : s.window.prst = false) (h : s.selection = .noUnit) :
    exec (.noUnitAccess a) s = .next (missAccess .noUnit a s) :=
  congrArg Host.Outcome.next ((if_neg (by simp [hp])).trans (if_pos h))

theorem exec_noIndexAccess (a : Access) (hp : s.window.prst = false) (h : s.selection = .noIndex) :
    exec (.noIndexAccess a) s = .next (missAccess .noIndex a s) :=
  congrArg Host.Outcome.next ((if_neg (by simp [hp])).trans (if_pos h))

end

/-- Settles O7: the ports by PRST#, and each access by the miss it is, where INDEX goes on. -/
theorem portsAndEmptySelections : Obligations.PortsAndEmptySelections := by
  unfold Obligations.PortsAndEmptySelections
  intro v s hp
  have hon : ¬ s.window.prst = true := by simp [hp]
  refine ⟨congrArg Host.Outcome.next (if_neg hon), congrArg Host.Outcome.next (if_neg hon), if_neg hon, if_neg hon,
    fun hunit => ?_, fun hsel => ?_⟩
  · have hsel := State.selection_noUnit ((unitOf_eq_none_iff s.window.unit).mpr (Nat.not_lt.mpr hunit))
    have hindex := State.indexStays_noUnit hsel
    rw [exec_noUnitAccess _ hp hsel, exec_noUnitAccess _ hp hsel, missAccess_write v hindex, missAccess_read hindex]
    exact ⟨rfl, rfl⟩
  · have hindex := State.indexStays_noIndex hsel
    rw [exec_noIndexAccess _ hp hsel, exec_noIndexAccess _ hp hsel, missAccess_write v hindex, missAccess_read hindex]
    exact ⟨rfl, rfl⟩

end Sys2Proof.Machine
end

section
/-! SUPPORT. DATA reads of a register: one byte, the low byte of a field, which loads the latch, and the high byte, from
the latch or as it stands; and the statement on them. -/

namespace Sys2Proof.Machine

section
variable {s : State} {r : Reg} {f : Field16}

/-! ### Reads by the kind of register (R181, R182) -/

theorem exec_registerRead_byte (h : s.atReg r) (hlo : ∀ f, r ≠ .lo f) (hhi : ∀ f, r ≠ .hi f) (hport : r ≠ .dataPort) :
    exec .registerRead s = .next (s.returns (regValue s r)).finishAccess := by
  simp only [exec, execRegisterRead, h.1, h.2]
  cases r with
  | lo f => exact absurd rfl (hlo f)
  | hi f => exact absurd rfl (hhi f)
  | dataPort => exact absurd rfl hport
  | _ => rfl

theorem exec_registerRead_hi (h : s.atReg (.hi f)) : exec .registerRead s = .next (readHigh f s) := by
  simp [exec, execRegisterRead, h.1, h.2]

/-- Where INDEX does not stay, an access moves it one further (R181). -/
theorem State.advanceIndex_off (h : s.window.indexStays = false) :
    s.advanceIndex = { s with window := { s.window with index := s.window.index + 1#8 } } := by
  simp only [State.advanceIndex, RegisterWindow.nextIndex, h]
  rfl

/-- The rule of INDEX at a register other than the data port, by the value of INDEX (R181). -/
theorem State.nextIndex_offPort (h : s.atReg r) (hport : r ≠ .dataPort) : s.window.nextIndex =
    if s.window.index = 0#8 ∨ s.window.index = 1#8 then s.window.index else s.window.index + 1#8 := by
  refine if_congr ?_ rfl rfl
  rw [State.indexStays_eq h.2, State.keepsIndex_iff h.2]
  simp only [hport, or_false]

/-! ### The two bytes of a field (R182) -/

/-- The state after a read of a field's low byte: the high byte stands in the latch, under the place of the high byte,
which INDEX now names. -/
def State.lowRead (f : Field16) (s : State) : State :=
  { s with window := { s.window with
    dataOut := loByte (fieldValue s f)
    latch := some { unit := s.window.unit, index := s.window.index + 1#8, value := hiByte (fieldValue s f) }
    index := s.window.index + 1#8 } }

theorem exec_lowByteRead_eq (h : s.atReg (.lo f)) : exec .lowByteRead s = .next (s.lowRead f) := by
  have hindex : s.window.indexStays = false := State.indexStays_eq h.2
  simp only [exec, execLowByteRead, h.1, h.2]
  exact congrArg Host.Outcome.next (State.advanceIndex_off hindex)

theorem State.lowRead_atReg (h : s.atReg (.lo f)) : (s.lowRead f).atReg (.hi f) :=
  ⟨h.1, State.selection_lo h.2⟩

theorem State.lowRead_latched (f : Field16) (s : State) :
    (s.lowRead f).window.latched = some (hiByte (fieldValue s f)) :=
  if_pos ⟨rfl, rfl⟩

/-- A high byte that the latch holds comes from the latch, whatever the field is by then. -/
theorem readHigh_latched {v : Byte} (h : s.atReg (.hi f)) (hv : s.window.latched = some v) :
    readHigh f s = stepped (s.returns v) := by
  rw [readHigh, hv]
  exact State.finishAccess_stepped h.2 rfl rfl rfl

/-- With the latch empty a high byte comes as it stands. -/
theorem readHigh_unlatched (h : s.atReg (.hi f)) (hl : s.window.latch = none) :
    readHigh f s = stepped (s.returns (hiByte (fieldValue s f))) := by
  have hnone : s.window.latched = none := by rw [RegisterWindow.latched, hl]
  have hindex : s.window.indexStays = false := State.indexStays_eq h.2
  rw [readHigh, hnone, stepped, ← hl]
  exact State.advanceIndex_off hindex

theorem State.atReg_congr {t : State} (h : s.atReg r) (hw : t.window = s.window) : t.atReg r := by
  rw [State.atReg, State.selection, hw]
  exact h

end

/-- Settles O9: a register of one byte by where INDEX goes, a high byte by the latch. -/
theorem registerReadsReturnTheField : Obligations.RegisterReadsReturnTheField := by
  unfold Obligations.RegisterReadsReturnTheField
  refine ⟨fun r s h hlo hhi hport => ?_, fun f s h => ?_, fun f s h hl => ?_⟩
  · rw [exec_registerRead_byte h hlo hhi hport, ← State.nextIndex_offPort h hport]
    rfl
  · refine ⟨s.lowRead f, exec_lowByteRead_eq h, rfl, State.lowRead_atReg h, fun u hu => ?_⟩
    have hat : u.atReg (.hi f) := State.atReg_congr (State.lowRead_atReg h) hu
    have hlatched : u.window.latched = some (hiByte (fieldValue s f)) := by rw [hu, State.lowRead_latched]
    rw [exec_registerRead_hi hat, readHigh_latched hat hlatched]
  · rw [exec_registerRead_hi h, readHigh_unlatched h hl]

end Sys2Proof.Machine
end

section
/-! SUPPORT. The queue of waiting commands through every command: the helpers of the single rows, the two ways a host
access closes, the guard of the events that may end a transaction; and the statement on it. -/

namespace Sys2Proof.Machine

/-! ### The helpers of the rows -/

@[simp] theorem State.readInReset_pending (s : State) : s.readInReset.pending = s.pending := rfl

@[simp] theorem accessInReset_pending (a : Access) (s : State) : (accessInReset a s).pending = s.pending := by
  cases a <;> rfl

@[simp] theorem missAccess_pending (c : WindowCause) (a : Access) (s : State) :
    (missAccess c a s).pending = s.pending := by
  cases a <;> rfl

@[simp] theorem readHigh_pending (f : Field16) (s : State) : (readHigh f s).pending = s.pending := by
  unfold readHigh
  split <;> rfl

@[simp] theorem writeDataPort_pending (v : Byte) (s : State) : (writeDataPort v s).pending = s.pending := by
  unfold writeDataPort
  dsimp only
  split
  · rfl
  · split <;> simp

@[simp] theorem readDataPort_pending (s : State) : (readDataPort s).pending = s.pending := by
  unfold readDataPort
  dsimp only
  split
  · rfl
  · split <;> rfl

@[simp] theorem echoed_pending (t : Txn) (order : EndOrder) (s : State) :
    (echoed t order s).pending = s.pending := by
  unfold echoed
  dsimp only
  split <;> simp

/-! ### The queue through an outcome -/

/-- Where the outcome is a next state, the queue in it is that of `s` (log entry 1). -/
def State.queueKept (s : State) (o : Host.Outcome State Fault Refusal) : Prop :=
  ∀ t, o = .next t → t.pending = s.pending

namespace State.queueKept

variable {s t : State}

theorem next (h : t.pending = s.pending) : s.queueKept (.next t) := by
  rintro _ ⟨⟩
  exact h

theorem idle : s.queueKept (.next s) := next rfl

theorem fault (f : Fault) : s.queueKept (.fault f) := by
  rintro _ ⟨⟩

theorem ite {p : Prop} [Decidable p] {a b : Host.Outcome State Fault Refusal} (ha : s.queueKept a)
    (hb : s.queueKept b) : s.queueKept (if p then a else b) := by
  split
  exacts [ha, hb]

/-- An effect that comes under a condition, and nothing else. -/
theorem nextIf {p : Prop} [Decidable p] (h : t.pending = s.pending) : s.queueKept (.next (if p then t else s)) := by
  split
  exacts [next h, idle]

/-- A write's effect at the register selected, and the close of the access (R181, R182). -/
theorem onWrite {c : WriteClass} {f : Reg → State → State} (h : ∀ r, (f r s).pending = s.pending) :
    s.queueKept (.next (onWrite c f s)) :=
  next (onWrite_cases (P := fun u => u.pending = s.pending) rfl fun r _ _ => h r)

/-- A write that is refused while cycles run (R39, R44, R56, R115). -/
theorem onWriteNoCycles {c : WriteClass} {f : Reg → State → State} (h : ∀ r, (f r s).pending = s.pending) :
    s.queueKept (.next (Machine.onWrite c (fun r => whenNoCycles (f r)) s)) :=
  onWrite fun r => whenNoCycles_cases (P := fun u => u.pending = s.pending) rfl fun _ => h r

/-- A command taken, answered and closed (R183). -/
theorem onCommand {u : UnitId} {code : Byte} {take : State → Taken} (h : (take s).state.pending = s.pending) :
    s.queueKept (.next (onCommand u code take s)) :=
  next (onCommand_cases (P := fun u => u.pending = s.pending) rfl fun _ => h)

/-- An event that may end a transaction faults or leads to its state (R92, R139). -/
theorem whenAddressed (h : t.pending = s.pending) : s.queueKept (whenAddressed s t) := by
  intro u hu
  obtain ⟨-, -, rfl⟩ := whenAddressed_next.mp hu
  exact h

end State.queueKept

/-! ### Every command -/

/-- The queue belongs to the outside: a host access closes with it as it stood, and an event changes the blocks of the
part alone. -/
theorem exec_queueKept (c : Instr) (s : State) : s.queueKept (exec c s) := by
  cases c with
  | powerOnReset | platformReset | platformResetRelease | attnPulseEnd => exact .next rfl
  | unitWrite | indexWrite =>
    refine .next ?_
    split <;> rfl
  | noUnitAccess | noIndexAccess =>
    refine .next ?_
    split
    · simp
    · split <;> simp
  | lowByteRead | registerRead =>
    refine .next ?_
    split
    · rfl
    · split <;> simp
  | registerWrite =>
    simp only [exec, execRegisterWrite]
    split
    exacts [.onWrite fun _ => rfl, .onWrite fun r => by simp]
  | linkConfigWrite | moduleFieldWrite | slotFieldWrite => exact .onWrite fun r => by split <;> simp
  | cycleLengthWrite | scanListWrite | searchVacantWrite | exchangeLimitWrite => exact .onWriteNoCycles fun r => by simp
  | stagingWrite | followWrite | commitDeadlineWrite | stagedSizeWrite | clearingRegisterWrite | intEnableWrite
  | attnEnableWrite => exact .onWrite fun r => by simp
  | clearError | start | run | stop | shutdown | expect | adopt | forget | disable | enable | commit | snapshot
  | freeze | release | post | retire | restart | abort | resume | configure | flush | pop | clearLost =>
    exact .onCommand (by simp)
  | unknownCommand =>
    simp only [exec, execUnknownCommand]
    split
    · split
      exacts [.idle, .onCommand rfl]
    all_goals exact .idle
  | dataPortWrite v => exact .ite (.ite (.onWrite fun _ => writeDataPort_pending v s) (.fault _)) .idle
  | dataPortRead => exact .ite (.next rfl) (.ite (.ite (.next (readDataPort_pending s)) (.fault _)) .idle)
  | lineCheckComplete | lineCheckFailed | attnPulseStart => exact .nextIf (by simp)
  | cycleTimerExpiry | gapElapsed =>
    refine .next ?_
    split <;> simp
  | echoMismatch | replyStart | receiveFault =>
    refine .next ?_
    split
    · split <;> simp
    · rfl
  | replyWindowExpiry =>
    simp only [exec, execReplyWindowExpiry]
    split
    exacts [.whenAddressed (by simp), .idle]
  | requestEchoed | quietLimitExpiry | settlingEnd | replyReceived =>
    simp only [exec, execRequestEchoed, execQuietLimitExpiry, execSettlingEnd, execReplyReceived]
    split
    exacts [.ite (.whenAddressed (by simp)) .idle, .idle]

/-- Settles O2: each command's outcome keeps the queue. -/
theorem commandsLeaveQueue : Obligations.CommandsLeaveQueue := by
  unfold Obligations.CommandsLeaveQueue
  exact exec_queueKept

end Sys2Proof.Machine
end
